-- ==== Sys2Proof/Word.lean ====
section
/-! DEFINITION. The word types of the Z85 codec core (00_scope.md R5, R6; 30_encoding.md R85). -/
namespace Sys2Proof

/-- A byte or an item of the input and output channels: 8 bits (R5, R6 `DATAW`, R74, R75). -/
abbrev Byte := BitVec 8

/-- A symbol inside the encoder and the decoder, an ASCII code: 7 bits (R6 `SYMW`, R85). -/
abbrev Sym := BitVec 7

/-- A digit inside the encoder and the decoder, 0 to 84: 7 bits (R6 `SYMW`, R85). -/
abbrev Digit := BitVec 7

/-- A symbol group or a digit group: five 7-bit fields, the first in bits 34 to 28 (R85). -/
abbrev Group := BitVec 35

/-- A group value: 32 bits (R5, R6 `WORDW`). -/
abbrev Word := BitVec 32

/-- An opcode: 3 bits (R6 `OPW`, R72). -/
abbrev Opcode := BitVec 3

end Sys2Proof
end

