-- ==== Sys2Proof/Config.lean ====
section
/-! DEFINITION. The parameters that the spec leaves open (00_scope.md R6; 92_eei_decisions.md D6, D18,
D19): one record, fixed when the core is built and never written by a step (R34, R265). The core leaves
no value undefined, so there is no free value here (93_implementation_defined.md, end of part 1). -/
namespace Sys2Proof

/-- The open parameters `LENW`, `OQ_DEPTH` and `ALPHABET` of R6. -/
structure Config where
  /-- `LENW`: width in bits of `cmd_len`, `len_r` and `in_cnt`. -/
  lenw : Nat
  /-- `OQ_DEPTH`: capacity of the output queue in items. -/
  oqDepth : Nat
  /-- `ALPHABET`: the symbol codes in digit order, the contents of `EncRom` (R27, R80). -/
  alphabet : List Sym
deriving DecidableEq, Repr

/-- A digit, a lower case or an upper case letter: the class `0-9a-zA-Z` of R79 (a). -/
abbrev isAlnumCode (c : Nat) : Prop :=
  (48 ≤ c ∧ c ≤ 57) ∨ (97 ≤ c ∧ c ≤ 122) ∨ (65 ≤ c ∧ c ≤ 90)

/-- A printable ASCII character that is no letter, no digit and not the space: the punctuation of
R79 (a) (log entry 3). -/
abbrev isPunctCode (c : Nat) : Prop := 33 ≤ c ∧ c ≤ 126 ∧ ¬ isAlnumCode c

/-- The 62 codes of `0-9a-zA-Z`, in the order in which R79 names the classes. -/
def alnumCodes : List Sym :=
  (List.range 10).map (fun n => BitVec.ofNat 7 (48 + n)) ++
  (List.range 26).map (fun n => BitVec.ofNat 7 (97 + n)) ++
  (List.range 26).map (fun n => BitVec.ofNat 7 (65 + n))

/-- What R79 (a), (b) and (e) ask of any `ALPHABET`: 85 distinct codes from 32 to 126, all of
`0-9a-zA-Z` and 23 punctuation characters, and the seven entries that the vector "HelloWorld" pins. -/
abbrev AlphabetLegal (a : List Sym) : Prop :=
  a.length = 85 ∧ a.Nodup ∧
  (∀ c ∈ a, 32 ≤ c.toNat ∧ c.toNat ≤ 126) ∧
  (∀ c ∈ alnumCodes, c ∈ a) ∧
  (∀ c ∈ a, isAlnumCode c.toNat ∨ isPunctCode c.toNat) ∧
  a[13]? = some 0x64#7 ∧ a[14]? = some 0x65#7 ∧ a[21]? = some 0x6C#7 ∧ a[24]? = some 0x6F#7 ∧
  a[27]? = some 0x72#7 ∧ a[43]? = some 0x48#7 ∧ a[58]? = some 0x57#7

/-- The constraints of R6 on the three parameters. -/
abbrev Config.Legal (c : Config) : Prop :=
  3 ≤ c.lenw ∧ 5 ≤ c.oqDepth ∧ AlphabetLegal c.alphabet

/-- The 23 punctuation codes of the default alphabet, digits 62 to 84 (R80). -/
def defaultPunctuation : List Sym :=
  [0x2E, 0x2D, 0x3A, 0x2B, 0x3D, 0x5E, 0x21, 0x2F, 0x2A, 0x3F, 0x26, 0x3C] ++
  [0x3E, 0x28, 0x29, 0x5B, 0x5D, 0x7B, 0x7D, 0x40, 0x25, 0x24, 0x23]

/-- The default `ALPHABET` of R80: `0`-`9`, `a`-`z`, `A`-`Z`, then the 23 punctuation characters
(log entry 2: the spec supplies it from general knowledge). -/
def defaultAlphabet : List Sym := alnumCodes ++ defaultPunctuation

/-- The defaults of R6: `LENW = 16`, `OQ_DEPTH = 8` and the alphabet of R80. -/
def Config.default : Config := { lenw := 16, oqDepth := 8, alphabet := defaultAlphabet }

end Sys2Proof
end

