-- ==== Sys2Proof/Syntax.lean ====
section
/-! DEFINITION. The commands of the core, one constructor per row of spec/opcode_table.json
(30_encoding.md R70, R72, R84). Every command word carries the length operand `cmd_len`, which `ENCG`,
`DECG` and the reserved opcodes ignore but still latch (R73; 93_implementation_defined.md U11). -/
namespace Sys2Proof

/-- One command of the opcode map R72 with its length operand `cmd_len`. -/
inductive Instr where
  /-- `Z85E`: encode a frame of `len` bytes (R112). -/
  | z85e (len : Nat)
  /-- `Z85D`: decode a frame of `len` symbols (R146). -/
  | z85d (len : Nat)
  /-- `PZ85E`: padded encode of a frame of `len` bytes (R166). -/
  | pz85e (len : Nat)
  /-- `PZ85D`: padded decode of a frame of `len` symbols (R174). -/
  | pz85d (len : Nat)
  /-- `ENCG`: encode exactly one group (R110). -/
  | encg (len : Nat)
  /-- `DECG`: decode exactly one group (R144). -/
  | decg (len : Nat)
  /-- `OP6`: reserved opcode 6 (R84). -/
  | op6 (len : Nat)
  /-- `OP7`: reserved opcode 7 (R84). -/
  | op7 (len : Nat)
deriving DecidableEq, Repr

/-- The length operand of a command (R73). -/
def Instr.len : Instr → Nat
  | .z85e n => n
  | .z85d n => n
  | .pz85e n => n
  | .pz85d n => n
  | .encg n => n
  | .decg n => n
  | .op6 n => n
  | .op7 n => n

end Sys2Proof
end

