-- ==== Sys2Proof/WellFormed.lean ====
section
/-! DEFINITION. Which commands a command word of `LENW + 3` bits can express (30_encoding.md R73). -/
namespace Sys2Proof

/-- The one check: the length operand fits the `LENW` bits of `cmd_len` (R73: every value from 0 to
`2^LENW - 1` is accepted, a longer frame cannot be expressed). -/
def Instr.wellFormed (lenw : Nat) (i : Instr) : Bool := decide (i.len < 2 ^ lenw)

end Sys2Proof
end

