-- ==== Sys2Proof/Decode.lean ====
section
/-! DEFINITION. The command word (30_encoding.md R70, R72): its decoder, total on every number, and the
encoder written from the same table. -/
namespace Sys2Proof

/-- Why a number is no command word. -/
inductive DecodeError where
  /-- It needs more than the `LENW + 3` bits of R70. -/
  | commandTooWide
deriving DecidableEq, Repr

/-- `cmd_op`, bits `[2:0]` of the command word (R70). -/
def opField (w : Nat) : Opcode := BitVec.ofNat 3 w

/-- `cmd_len`, bits `[LENW+2:3]` of the command word (R70). -/
def lenField (w : Nat) : Nat := w / 8

/-- The opcode map R72, read by its three bits: `op[2]` single group, `op[1]` padded, `op[0]` decode. -/
def instrOf (op : Opcode) (len : Nat) : Instr :=
  match op[2], op[1], op[0] with
  | false, false, false => .z85e len
  | false, false, true => .z85d len
  | false, true, false => .pz85e len
  | false, true, true => .pz85d len
  | true, false, false => .encg len
  | true, false, true => .decg len
  | true, true, false => .op6 len
  | true, true, true => .op7 len

/-- The command that a command word of `lenw + 3` bits stands for (R70, R72). -/
def decode (lenw w : Nat) : Except DecodeError Instr :=
  if w < 2 ^ (lenw + 3) then .ok (instrOf (opField w) (lenField w)) else .error .commandTooWide

/-- The opcode of a command, column `cmd_op` of R72. -/
def Instr.op : Instr → Opcode
  | .z85e _ => 0#3
  | .z85d _ => 1#3
  | .pz85e _ => 2#3
  | .pz85d _ => 3#3
  | .encg _ => 4#3
  | .decg _ => 5#3
  | .op6 _ => 6#3
  | .op7 _ => 7#3

/-- The command word as a number, `cmd_len * 8 + cmd_op` (R70). -/
def encode (i : Instr) : Nat := i.len * 8 + i.op.toNat

/-- The word on the command channel's `lenw + 3` wires when the table's row is given as `nbits` bits
`w`: bits above `nbits` are 0 and the padding to whole bytes above bit `lenw + 2` is on no wire
(log entry 9). -/
def portWord (lenw nbits w : Nat) : Nat := w % 2 ^ nbits % 2 ^ (lenw + 3)

/-- What the decoder reads from a row of spec/opcode_table.json, for the table's `LENW = 16`. -/
def decodeTableWord (nbits w : Nat) : Option Instr :=
  match decode Config.default.lenw (portWord Config.default.lenw nbits w) with
  | .ok i => some i
  | .error _ => none

end Sys2Proof
end

