-- ==== Sys2Proof/Machine/State.lean ====
section
/-! DEFINITION. The state of one core (10_state.md R22), the host's side of its channels (30_encoding.md
R77, R78; log entry 5), and the state after RESET (R39). -/
namespace Sys2Proof.Machine

/-- The control state `st` (R23). -/
inductive Ctrl where
  /-- IDLE: no command in progress; a command can be accepted. -/
  | idle
  /-- BUSY: a command was accepted and its DONE beat has not happened. -/
  | busy
  /-- HALT: the last command ended in OUT_OF_RANGE; nothing is accepted until RESET. -/
  | halt
deriving DecidableEq, Repr

/-- The six kinds of step of R190. -/
inductive Turn where
  /-- CMD: the command channel's beat. -/
  | cmd
  /-- PREFIX: the core feeds a header or zero byte to the packer. -/
  | pfx
  /-- IN: the input channel's beat. -/
  | inp
  /-- OUT: the output channel's beat. -/
  | out
  /-- DONE: the done channel's beat. -/
  | done
  /-- RESET: one rising edge of `clk` with `rst = 1`. -/
  | reset
deriving DecidableEq, Repr

/-- The status codes that R76 lets the core produce (codes 6 and 7 are never produced). -/
inductive Status where
  | ok
  | invalidLength
  | emptyInput
  | badSymbol
  | illegalOp
  | outOfRange
deriving DecidableEq, Repr

/-- The two fields `done_status` and `done_ovf` of a DONE beat (R76). -/
structure DoneWord where
  status : Status
  ovf : Bool
deriving DecidableEq, Repr

/-- One beat that the sink has taken: an output item (R207) or a status word (R210). -/
inductive Delivery where
  | item (b : Byte)
  | status (w : DoneWord)
deriving DecidableEq, Repr

/-- The machine. The fields from `st` to `decOvf` are the 16 registers of R22. `cfg` holds the core's
parameters (R34), which no step writes. The last four fields are the host's side of the channels. -/
structure State where
  /-- The open parameters of R6; fixed before a run (log entry 1). -/
  cfg : Config
  /-- `st`. -/
  st : Ctrl
  /-- `op_r`: opcode of the command in progress. -/
  opR : Opcode
  /-- `len_r`: its length operand, `LENW` bits (log entry 15). -/
  lenR : Nat
  /-- `in_cnt`: input items of the frame consumed so far, `LENW` bits (log entry 15). -/
  inCnt : Nat
  /-- `bad_r`: some completed group held an invalid symbol. -/
  badR : Bool
  /-- `ovf_r`: some completed group had a value of `2^32` or more. -/
  ovfR : Bool
  /-- `oq`: the output queue, head first (R33). -/
  oq : List Byte
  /-- `pre_n`: prefix bytes still to insert. -/
  preN : BitVec 3
  /-- `pack_acc`: the byte packer's accumulator. -/
  packAcc : Word
  /-- `pack_n`: bytes collected in `pack_acc`. -/
  packN : BitVec 2
  /-- `first_grp`: no group of this decode frame has completed yet. -/
  firstGrp : Bool
  /-- `oor`: the header of this `PZ85D` frame was 4 or more. -/
  oor : Bool
  /-- `dec_acc`: the decoder's accumulator. -/
  decAcc : Word
  /-- `dec_n`: symbols accumulated in `dec_acc`. -/
  decN : BitVec 3
  /-- `dec_bad`: some symbol of the unfinished group was invalid. -/
  decBad : Bool
  /-- `dec_ovf`: the running value of the unfinished group reached `2^32`. -/
  decOvf : Bool
  /-- Command words the host offers and has yet to offer, the one on the port first (R70, R78). -/
  cmdCh : List Nat
  /-- Input items the host offers and has yet to offer, the one on the port first (R74, R78). -/
  inCh : List Byte
  /-- Beats the sink has taken, the oldest first (R56, R60). -/
  sink : List Delivery
  /-- Which kind of step is tried next, the next first; when empty, the eager order of log entry 6
  (R190: any enabled step may happen next). -/
  sched : List Turn
deriving DecidableEq, Repr

/-- Reasons for the model to stop with a fault. There are none: in every state every step of the core
has one next state (93_implementation_defined.md, end of part 1), and the fatal condition OUT_OF_RANGE is
the control state HALT, not a stop of the model (R240). -/
inductive Fault : Type where
deriving DecidableEq, Repr

/-- Reasons for the model to refuse a step. -/
inductive Refusal where
  /-- An instruction with no meaning yet, by its mnemonic; raised by no arm of `exec`. Safe. -/
  | notModelled (mnemonic : String)
  /-- The host side holds a number that does not fit the `LENW + 3` wires of the command channel, so that
  no command word is on the port (R73; 93_implementation_defined.md U7 "refuse"). Raised by `step` alone. Safe. -/
  | commandTooWide
deriving DecidableEq, Repr

/-- The state after RESET (R39, R260), with the default parameters of R6 and nothing offered or taken on
any channel (log entry 11). -/
def State.reset : State where
  cfg := Config.default
  st := .idle
  opR := 0#3
  lenR := 0
  inCnt := 0
  badR := false
  ovfR := false
  oq := []
  preN := 0#3
  packAcc := 0#32
  packN := 0#2
  firstGrp := false
  oor := false
  decAcc := 0#32
  decN := 0#3
  decBad := false
  decOvf := false
  cmdCh := []
  inCh := []
  sink := []
  sched := []

end Sys2Proof.Machine
end

