-- ==== Sys2Proof/Machine/Operands.lean ====
section
/-! DEFINITION. Operand forms: what a frame needs (10_state.md R24), the padding count, byte and item
order (20_memory.md R54), and the two table reads (R52, R53). -/
namespace Sys2Proof.Machine

/-- `PadLen(n)` (42_padded_wrapper.md R160). -/
def padLen (n : Nat) : Nat := (4 - (n + 1) % 4) % 4

/-- `Need(op, len)`: the number of input items the frame consumes (R24). -/
def need (op : Opcode) (len : Nat) : Nat :=
  if op = 4#3 then 4
  else if op = 5#3 then 5
  else if op = 6#3 ∨ op = 7#3 then 0
  else len

/-- `Early(op, len)`: the failure known from the command alone, `none` for the spec's NONE (R24). -/
def early (op : Opcode) (len : Nat) : Option Status :=
  if op = 6#3 ∨ op = 7#3 then some .illegalOp
  else if op = 0#3 ∧ len % 4 ≠ 0 then some .invalidLength
  else if (op = 1#3 ∨ op = 3#3) ∧ len = 0 then some .emptyInput
  else if (op = 1#3 ∨ op = 3#3) ∧ len % 5 ≠ 0 then some .invalidLength
  else none

/-- The number of prefix bytes that CMD loads into `pre_n` (43_core_control.md R192). -/
def prefixCount (op : Opcode) (len : Nat) : Nat := if op = 2#3 then 1 + padLen len else 0

/-- `Word(b0, b1, b2, b3)`: four byte items as a big-endian word (R54). -/
def wordOf (b0 b1 b2 b3 : Byte) : Word := b0 ++ b1 ++ b2 ++ b3

/-- `Bytes(w)`: a word as four byte items, the most significant first (R54). -/
def bytesOf (w : Word) : List Byte :=
  [w.extractLsb' 24 8, w.extractLsb' 16 8, w.extractLsb' 8 8, w.extractLsb' 0 8]

/-- `EncRom(d)`: the symbol of digit `d` in the table whose contents are `alphabet` (R52). -/
def encRom (alphabet : List Sym) (d : Digit) : Sym := alphabet.getD d.toNat 0#7

/-- An entry of `DecRom`: a valid bit and a 7-bit digit (R27). -/
structure DecEntry where
  valid : Bool
  digit : Digit
deriving DecidableEq, Repr

/-- The 8 bits of a `DecRom` entry, `valid` above `digit` (R27). -/
def DecEntry.bits (e : DecEntry) : BitVec 8 := BitVec.ofBool e.valid ++ e.digit

/-- `DecRom(i)`, `0 <= i <= 94`: the digit whose symbol has code `i + 32`, or an unused slot
(30_encoding.md R82, R83). -/
def decRom (alphabet : List Sym) (i : Nat) : DecEntry :=
  match alphabet.findIdx? (fun c => c.toNat == i + 32) with
  | some d => { valid := true, digit := BitVec.ofNat 7 d }
  | none => { valid := false, digit := 0#7 }

/-- `DecLookup(x)`: the table read of an 8-bit input item, total (R53). -/
def decLookup (alphabet : List Sym) (x : Byte) : DecEntry :=
  if x.msb then { valid := false, digit := 0#7 }
  else
    let c := (x.extractLsb' 0 7).toNat
    if c < 32 ∨ 126 < c then { valid := false, digit := 0#7 } else decRom alphabet (c - 32)

/-- A symbol as an output item: zero-extended to 8 bits (R33, 30_encoding.md R75). -/
def symItem (s : Sym) : Byte := s.zeroExtend 8

/-- A group of five symbols or digits as the 35-bit vector that has the first in bits 34 to 28
(20_memory.md R55, 30_encoding.md R85). -/
def groupBits (x0 x1 x2 x3 x4 : BitVec 7) : Group := x0 ++ x1 ++ x2 ++ x3 ++ x4

/-- Bits `7*k+6` to `7*k` of a group: its field of weight `k`, so that field 4 is the first (30_encoding.md
R85). -/
def groupField (g : Group) (k : Nat) : BitVec 7 := g.extractLsb' (7 * k) 7

end Sys2Proof.Machine
end

