-- ==== Sys2Proof/Machine/Flags.lean ====
section
/-! DEFINITION. The five flag bits (10_state.md R25), the status word (30_encoding.md R76) and its value at
DONE (43_core_control.md R210). -/
namespace Sys2Proof.Machine

/-- `bad'` of `DecSym`: some symbol of the group so far was invalid (41_base85_decoder.md R135, R136). -/
def symBad (decBad : Bool) (e : DecEntry) : Bool := decBad || !e.valid

/-- `ovf'` of `DecSym`: the exact running value `t` reached `2^32` (R135, R137). -/
def symOvf (decOvf : Bool) (t : Nat) : Bool := decOvf || decide (2 ^ 32 ≤ t)

/-- The header byte `p = w[31:24]` of a first group (42_padded_wrapper.md R170). -/
def headerOf (w : Word) : Byte := w.extractLsb' 24 8

/-- Whether this completed group carries a header: the first good group of a `PZ85D` frame (R205). -/
def carriesHeader (op : Opcode) (firstGrp bad : Bool) : Bool := decide (op = 3#3) && firstGrp && !bad

/-- The header test `p >= 4` (R170). -/
def headerOutOfRange (p : Byte) : Bool := decide (4 ≤ p.toNat)

/-- The numeric code of a status (R76). -/
def Status.code : Status → BitVec 3
  | .ok => 0#3
  | .invalidLength => 1#3
  | .emptyInput => 2#3
  | .badSymbol => 3#3
  | .illegalOp => 4#3
  | .outOfRange => 5#3

/-- Whether a status is a soft failure (60_exceptions.md R230). -/
def Status.isSoft : Status → Bool
  | .ok => false
  | .invalidLength => true
  | .emptyInput => true
  | .badSymbol => true
  | .illegalOp => true
  | .outOfRange => false

/-- The 4-bit status word: `done_ovf` in bit 3, `done_status` in bits `[2:0]` (R76). -/
def DoneWord.bits (d : DoneWord) : BitVec 4 := BitVec.ofBool d.ovf ++ d.status.code

/-- `Status` of the DONE step, by the precedence of R210 (60_exceptions.md R238). -/
def doneStatus (op : Opcode) (len : Nat) (badR oor : Bool) : Status :=
  match early op len with
  | some e => e
  | none => if badR then .badSymbol else if oor then .outOfRange else .ok

end Sys2Proof.Machine
end

