-- ==== Sys2Proof/Machine/Decoder.lean ====
section
/-! DEFINITION. The unit base85_decoder as a function of a whole group (41_base85_decoder.md R140). The
symbol at a time form, `DecSym` of R135, is in Machine/Ops.lean. -/
namespace Sys2Proof.Machine

/-- What the decoder hands over at a group completion (R130, R138). -/
structure GroupResult where
  w : Word
  bad : Bool
  ovf : Bool
deriving DecidableEq, Repr

/-- The exact running value after one more digit, `value * 85 + digit` (R134, R135). -/
def accumulate (acc : Nat) (e : DecEntry) : Nat := acc * 85 + e.digit.toNat

/-- The group value `V` of five input items, an invalid symbol counting as digit 0 (R134, R136). -/
def groupValue (alphabet : List Sym) (x0 x1 x2 x3 x4 : Byte) : Nat :=
  (decLookup alphabet x0).digit.toNat * 85 ^ 4 + (decLookup alphabet x1).digit.toNat * 85 ^ 3 +
    (decLookup alphabet x2).digit.toNat * 85 ^ 2 + (decLookup alphabet x3).digit.toNat * 85 +
    (decLookup alphabet x4).digit.toNat

/-- `DecGrp(x0, x1, x2, x3, x4)` (R140). -/
def decGrp (alphabet : List Sym) (x0 x1 x2 x3 x4 : Byte) : GroupResult :=
  { w := BitVec.ofNat 32 (groupValue alphabet x0 x1 x2 x3 x4)
    bad := !(decLookup alphabet x0).valid || !(decLookup alphabet x1).valid ||
      !(decLookup alphabet x2).valid || !(decLookup alphabet x3).valid || !(decLookup alphabet x4).valid
    ovf := decide (2 ^ 32 ≤ groupValue alphabet x0 x1 x2 x3 x4) }

end Sys2Proof.Machine
end

