-- ==== Sys2Proof/Machine/Encoder.lean ====
section
/-! DEFINITION. The unit base85_encoder, a pure function of its input word (40_base85_encoder.md R100,
R108). -/
namespace Sys2Proof.Machine

/-- The digit of weight `85^k` of a word, as the 7-bit digit between radix conversion and `EncRom` (R101,
30_encoding.md R85). -/
def digit (w : Word) (k : Nat) : Digit := BitVec.ofNat 7 (w.toNat / 85 ^ k % 85)

/-- `Digits(w)`: the five base-85 digits, the most significant first (R101). -/
def digits (w : Word) : List Digit := [digit w 4, digit w 3, digit w 2, digit w 1, digit w 0]

/-- The digit group `{d0, d1, d2, d3, d4}` inside the encoder (30_encoding.md R85). -/
def digitGroup (w : Word) : Group := groupBits (digit w 4) (digit w 3) (digit w 2) (digit w 1) (digit w 0)

/-- `EncGrp(w)`: the five symbols, the most significant digit's first (R104, R106). -/
def encGrp (alphabet : List Sym) (w : Word) : List Sym := (digits w).map (encRom alphabet)

/-- `EncGrp(w)` on the unit's 35-bit output `enc_grp`: the digit group with each digit replaced by its
symbol (R100, R104, R106). -/
def encGrpBits (alphabet : List Sym) (w : Word) : Group :=
  let d := groupField (digitGroup w)
  groupBits (encRom alphabet (d 4)) (encRom alphabet (d 3)) (encRom alphabet (d 2))
    (encRom alphabet (d 1)) (encRom alphabet (d 0))

/-- The output items of an encode group: the five symbols, each zero-extended (R162, 43_core_control.md
R202). -/
def encItems (alphabet : List Sym) (w : Word) : List Byte := (encGrp alphabet w).map symItem

end Sys2Proof.Machine
end

