-- ==== Sys2Proof/Machine/Ops.lean ====
section
/-! DEFINITION. The shared operations: the step relation of 43_core_control.md R190 to R210 and the RESET
step of 70_reset_and_hazards.md R260, the choice of the next step, and the fetch of a command. -/
namespace Sys2Proof.Machine

/-! ### When a step is enabled -/

/-- Room in the queue for the largest output of a group: `|oq| <= OQ_DEPTH - 5` (R197, R199). -/
def hasRoom (s : State) : Bool := decide (s.oq.length + 5 ≤ s.cfg.oqDepth)

/-- CMD is enabled (R191). -/
def canCmd (s : State) : Bool := decide (s.st = .idle)

/-- PREFIX is enabled (R197). -/
def canPrefix (s : State) : Bool := decide (s.st = .busy) && decide (s.preN ≠ 0#3) && hasRoom s

/-- IN is enabled (R199). -/
def canIn (s : State) : Bool :=
  decide (s.st = .busy) && decide (s.preN = 0#3) && decide (s.inCnt < need s.opR s.lenR) && hasRoom s

/-- OUT is enabled (R207). -/
def canOut (s : State) : Bool := decide (s.oq ≠ [])

/-- DONE is enabled (R209). -/
def canDone (s : State) : Bool :=
  decide (s.st = .busy) && decide (s.preN = 0#3) && decide (s.inCnt = need s.opR s.lenR) && decide (s.oq = [])

/-! ### CMD -/

/-- The CMD step with the command word `(op, len)`: every register but `oq` is written (R192). -/
def cmdStep (op : Opcode) (len : Nat) (s : State) : State :=
  { s with
    opR := op, lenR := len, inCnt := 0
    packAcc := 0#32, packN := 0#2
    decAcc := 0#32, decN := 0#3, decBad := false, decOvf := false
    firstGrp := true, oor := false, badR := false, ovfR := false
    preN := BitVec.ofNat 3 (prefixCount op len)
    st := .busy }

/-! ### The queue and the byte packer -/

/-- Items appended at the tail of the output queue, in order (10_state.md R33). -/
def enqueue (items : List Byte) (s : State) : State := { s with oq := s.oq ++ items }

/-- `PackByte(b)` (42_padded_wrapper.md R162). The accumulator keeps 32 bits, which is exact whenever
`pack_acc < 2^24` (10_state.md R37 (b); log entry 10). -/
def packByte (b : Byte) (s : State) : State :=
  let t : Word := s.packAcc * 256#32 + b.zeroExtend 32
  if s.packN = 3#2 then
    enqueue (encItems s.cfg.alphabet t) { s with packAcc := 0#32, packN := 0#2 }
  else { s with packAcc := t, packN := s.packN + 1#2 }

/-- The prefix byte due next: the header when `j = (1 + PadLen(len_r)) - pre_n` is 0, else a zero byte
(R167, R198). -/
def prefixByte (s : State) : Byte :=
  if s.preN.toNat = 1 + padLen s.lenR then BitVec.ofNat 8 (padLen s.lenR) else 0#8

/-- The PREFIX step (R198). -/
def prefixStep (s : State) : State := packByte (prefixByte s) { s with preN := s.preN - 1#3 }

/-! ### The decoder and its group completion -/

/-- `GroupOut(w, b, o)`: the flags (R205), the header check and the strip (42_padded_wrapper.md R170,
R171), and the bytes (R206). -/
def groupOut (w : Word) (b o : Bool) (s : State) : State :=
  let header := carriesHeader s.opR s.firstGrp b
  let p := headerOf w
  let bad' := s.badR || b
  let oor' := s.oor || (header && headerOutOfRange p)
  let skip := if header && !headerOutOfRange p then 1 + p.toNat else 0
  let items := if !bad' && !oor' then (bytesOf w).drop skip else []
  enqueue items
    { s with badR := bad', ovfR := s.ovfR || o, oor := oor', firstGrp := false }

/-- `DecSym(x)` (41_base85_decoder.md R135). -/
def decSym (x : Byte) (s : State) : State :=
  let e := decLookup s.cfg.alphabet x
  let t := accumulate s.decAcc.toNat e
  let bad' := symBad s.decBad e
  let ovf' := symOvf s.decOvf t
  let w := BitVec.ofNat 32 t
  if s.decN = 4#3 then
    groupOut w bad' ovf' { s with decAcc := 0#32, decN := 0#3, decBad := false, decOvf := false }
  else { s with decAcc := w, decN := s.decN + 1#3, decBad := bad', decOvf := ovf' }

/-! ### IN, OUT and DONE -/

/-- The IN step with item `x`: the item is counted, then discarded after an early failure (R200), packed
on an encode command (R201) or decoded on a decode command (R203), as `op_r[0]` says. -/
def inStep (x : Byte) (s : State) : State :=
  let counted := { s with inCnt := s.inCnt + 1 }
  match early s.opR s.lenR with
  | some _ => counted
  | none => if s.opR[0] then decSym x counted else packByte x counted

/-- A beat that the sink takes. -/
def deliver (d : Delivery) (s : State) : State := { s with sink := s.sink ++ [d] }

/-- The OUT step: the head of the queue goes to the sink (R207). -/
def outStep (s : State) : State :=
  match s.oq with
  | [] => s
  | y :: rest => deliver (.item y) { s with oq := rest }

/-- Entry to the fatal state, the core's one exceptional transfer: `st <- HALT` and no other register
(R210, 60_exceptions.md R240). -/
def enterHalt (s : State) : State := { s with st := .halt }

/-- The status word that DONE delivers (R210). -/
def doneWord (s : State) : DoneWord :=
  { status := doneStatus s.opR s.lenR s.badR s.oor, ovf := s.ovfR }

/-- The DONE step: the status word goes to the sink, and the core enters HALT on OUT_OF_RANGE, else
IDLE (R210). -/
def doneStep (s : State) : State :=
  let delivered := deliver (.status (doneWord s)) s
  if (doneWord s).status = .outOfRange then enterHalt delivered else { delivered with st := .idle }

/-! ### RESET, the only way out of HALT (60_exceptions.md R242) -/

/-- The RESET step: every register of 10_state.md R22 at its reset value, the channels as they are
(R260, R261). -/
def resetStep (s : State) : State :=
  { s with
    st := .idle
    opR := 0#3, lenR := 0, inCnt := 0
    badR := false, ovfR := false
    oq := []
    preN := 0#3, packAcc := 0#32, packN := 0#2, firstGrp := false, oor := false
    decAcc := 0#32, decN := 0#3, decBad := false, decOvf := false }

/-! ### Which step is next -/

/-- The step taken when the schedule says nothing: PREFIX and IN whenever they can happen, else OUT, else
DONE, and CMD in IDLE (the schedule of 95_test_vectors.md section 4; log entry 6). -/
def eagerTurn (s : State) : Turn :=
  if canCmd s && !s.cmdCh.isEmpty then .cmd
  else if canPrefix s then .pfx
  else if canIn s && !s.inCh.isEmpty then .inp
  else if canOut s then .out
  else if canDone s then .done
  else .cmd

/-- The kind of step tried next (R190: any enabled step may happen next). -/
def turn (s : State) : Turn :=
  match s.sched with
  | t :: _ => t
  | [] => eagerTurn s

/-- The schedule moves on. -/
def passTurn (s : State) : State := { s with sched := s.sched.tail }

/-- The command word on the port is taken (R78). -/
def takeCommand (s : State) : State := { s with cmdCh := s.cmdCh.tail }

/-- The IN beat of the item on the input port, if there is one (R78, R199). -/
def takeItem (s : State) : State :=
  match s.inCh with
  | [] => s
  | x :: rest => inStep x { s with inCh := rest }

/-- The work of the command in progress: the step of kind `t` if it is enabled, else nothing. -/
def workStep (t : Turn) (s : State) : State :=
  match t with
  | .pfx => if canPrefix s then prefixStep s else s
  | .inp => if canIn s then takeItem s else s
  | .out => if canOut s then outStep s else s
  | .done => if canDone s then doneStep s else s
  | .cmd => s
  | .reset => s

/-- One step of the command `(op, len)`. On its CMD turn it is accepted if the core is in IDLE (R191,
R192) and waits otherwise. On every other turn its own PREFIX, IN, OUT or DONE step happens if the
command registers hold this command and the step is enabled; another command's turn leaves it waiting
(R191; log entry 7). -/
def runCommand (op : Opcode) (len : Nat) (s : State) : State :=
  match turn s with
  | .cmd => if canCmd s then passTurn (takeCommand (cmdStep op len s)) else passTurn s
  | .reset => passTurn (resetStep s)
  | t => if s.opR = op ∧ s.lenR = len then passTurn (workStep t s) else passTurn s

/-! ### Fetch -/

/-- What a step of the machine runs. -/
inductive Fetched where
  /-- No command is on the port, or the core is not in IDLE: a CMD turn without a beat. -/
  | waits
  /-- The RESET step, which belongs to no command. -/
  | resets
  /-- The command on the port (CMD turn in IDLE) or the one in the command registers. -/
  | runs (i : Instr)
  /-- The number on the port is no command word. -/
  | tooWide
deriving DecidableEq, Repr

/-- The command that the next step runs: on a CMD turn in IDLE the one on the port, on the turns of a
frame the one that `op_r` and `len_r` hold (10_state.md R21: nothing else is fetched). -/
def fetch (s : State) : Fetched :=
  match turn s with
  | .reset => .resets
  | .cmd =>
    match s.st, s.cmdCh with
    | .idle, w :: _ =>
      match decode s.cfg.lenw w with
      | .ok i => .runs i
      | .error _ => .tooWide
    | _, _ => .waits
  | _ => .runs (instrOf s.opR s.lenR)

end Sys2Proof.Machine
end

