-- ==== Sys2Proof/Machine/DecodeCommands.lean ====
section
/-! DEFINITION. The meanings of the decode commands without padding (41_base85_decoder.md). -/
namespace Sys2Proof.Machine

/-- `Z85D` (R146), opcode 1: every fifth symbol completes a group and appends its four bytes until a group
is bad; an empty frame ends in EMPTY_INPUT, a length that is no multiple of 5 in INVALID_LENGTH. -/
def execZ85d (len : Nat) (s : State) : Host.Outcome State Fault Refusal := .next (runCommand 1#3 len s)

/-- `DECG` (R144), opcode 5: exactly one group, `cmd_len` latched and ignored. -/
def execDecg (len : Nat) (s : State) : Host.Outcome State Fault Refusal := .next (runCommand 5#3 len s)

end Sys2Proof.Machine
end

