-- ==== Sys2Proof/Machine/EncodeCommands.lean ====
section
/-! DEFINITION. The meanings of the encode commands without padding (40_base85_encoder.md). A meaning is
one step of its command: CMD, then PREFIX, IN, OUT and DONE as they are enabled and due. -/
namespace Sys2Proof.Machine

/-- `Z85E` (R112), opcode 0: four IN steps pack a word and append its five symbols; a length that is no
multiple of 4 drains the frame and ends in INVALID_LENGTH. -/
def execZ85e (len : Nat) (s : State) : Host.Outcome State Fault Refusal := .next (runCommand 0#3 len s)

/-- `ENCG` (R110), opcode 4: exactly one group, `cmd_len` latched and ignored. -/
def execEncg (len : Nat) (s : State) : Host.Outcome State Fault Refusal := .next (runCommand 4#3 len s)

end Sys2Proof.Machine
end

