-- ==== Sys2Proof/Machine/PaddedCommands.lean ====
section
/-! DEFINITION. The meanings of the padded commands (42_padded_wrapper.md). -/
namespace Sys2Proof.Machine

/-- `PZ85E` (R166), opcode 2: PREFIX steps insert the header and the zero bytes, then IN steps pack the
payload; it never fails. -/
def execPz85e (len : Nat) (s : State) : Host.Outcome State Fault Refusal := .next (runCommand 2#3 len s)

/-- `PZ85D` (R174), opcode 3: as `Z85D`, with the header check and the strip on the first group; a header
of 4 or more in a frame without a bad symbol ends in OUT_OF_RANGE and HALT. -/
def execPz85d (len : Nat) (s : State) : Host.Outcome State Fault Refusal := .next (runCommand 3#3 len s)

end Sys2Proof.Machine
end

