-- ==== Sys2Proof/Machine/ReservedCommands.lean ====
section
/-! DEFINITION. The meanings of the reserved opcodes: accepted, no item moved, status ILLEGAL_OP
(30_encoding.md R84, 60_exceptions.md R233). -/
namespace Sys2Proof.Machine

/-- `OP6` (R84), opcode 6. -/
def execOp6 (len : Nat) (s : State) : Host.Outcome State Fault Refusal := .next (runCommand 6#3 len s)

/-- `OP7` (R84), opcode 7. -/
def execOp7 (len : Nat) (s : State) : Host.Outcome State Fault Refusal := .next (runCommand 7#3 len s)

end Sys2Proof.Machine
end

