-- ==== Sys2Proof/Machine/Dispatch.lean ====
section
/-! DEFINITION. One arm per command of the opcode map (30_encoding.md R72). -/
namespace Sys2Proof.Machine

def exec (i : Instr) (s : State) : Host.Outcome State Fault Refusal :=
  match i with
  | .z85e len => Sys2Proof.Machine.execZ85e len s
  | .z85d len => Sys2Proof.Machine.execZ85d len s
  | .pz85e len => Sys2Proof.Machine.execPz85e len s
  | .pz85d len => Sys2Proof.Machine.execPz85d len s
  | .encg len => Sys2Proof.Machine.execEncg len s
  | .decg len => Sys2Proof.Machine.execDecg len s
  | .op6 len => Sys2Proof.Machine.execOp6 len s
  | .op7 len => Sys2Proof.Machine.execOp7 len s

end Sys2Proof.Machine
end

