-- ==== Sys2Proof/Machine/Step.lean ====
section
/-! DEFINITION. One step of the machine (43_core_control.md R190), and the placing of a command for the
host's questions. -/
namespace Sys2Proof.Machine

/-- One step: RESET, or one step of the command that `fetch` names, or a turn without a beat. -/
def step (s : State) : Host.Outcome State Fault Refusal :=
  match fetch s with
  | .waits => .next (passTurn s)
  | .resets => .next (passTurn (resetStep s))
  | .runs i => exec i s
  | .tooWide => .refused .commandTooWide

/-- `s` with the command word of `nbits` bits `w` on the command port, ahead of every other offer, the core
in IDLE and a CMD turn next, so that the next step accepts exactly that command (log entry 8). -/
def State.withFetchWord (s : State) (nbits w : Nat) : State :=
  { s with
    st := .idle
    cmdCh := portWord s.cfg.lenw nbits w :: s.cmdCh
    sched := .cmd :: s.sched }

end Sys2Proof.Machine
end

