-- ==== Sys2Proof/Machine/Frame.lean ====
section
/-! DEFINITION. The frame level: the functions of whole input sequences that the document gives
(40_base85_encoder.md R111; 41_base85_decoder.md R145; 42_padded_wrapper.md R164, R165, R173;
43_core_control.md R193), and what the ports show of a frame (R212, R215). -/
namespace Sys2Proof.Machine

/-- The three kinds of result of a frame (60_exceptions.md R230). -/
inductive FrameResult where
  /-- `OK(data, ovf)`. -/
  | ok (data : List Byte) (ovf : Bool)
  /-- `raise Soft(code)`. -/
  | soft (code : Status)
  /-- `raise Fatal(OUT_OF_RANGE)`. -/
  | fatal
deriving DecidableEq, Repr

/-- The symbols of consecutive 4-byte groups; a partial trailing group gives nothing (R111). -/
def encodeGroups (alphabet : List Sym) : List Byte → List Byte
  | b0 :: b1 :: b2 :: b3 :: rest => encItems alphabet (wordOf b0 b1 b2 b3) ++ encodeGroups alphabet rest
  | _ => []

/-- `Z85Encode(b)` (R111). -/
def z85Encode (alphabet : List Sym) (b : List Byte) : FrameResult :=
  if b.length % 4 ≠ 0 then .soft .invalidLength else .ok (encodeGroups alphabet b) false

/-- `DecGrp` of consecutive groups of five items (R145). -/
def decodeGroups (alphabet : List Sym) : List Byte → List GroupResult
  | x0 :: x1 :: x2 :: x3 :: x4 :: rest => decGrp alphabet x0 x1 x2 x3 x4 :: decodeGroups alphabet rest
  | _ => []

/-- The bytes of a sequence of groups, in order (R145). -/
def groupBytes (gs : List GroupResult) : List Byte := gs.flatMap (fun g => bytesOf g.w)

/-- `Z85Decode(s)` (R145). -/
def z85Decode (alphabet : List Sym) (x : List Byte) : FrameResult :=
  if x.length = 0 then .soft .emptyInput
  else if x.length % 5 ≠ 0 then .soft .invalidLength
  else if (decodeGroups alphabet x).any (fun g => g.bad) then .soft .badSymbol
  else .ok (groupBytes (decodeGroups alphabet x)) ((decodeGroups alphabet x).any (fun g => g.ovf))

/-- `Inner(b)`: header, zero bytes, payload (R164). -/
def inner (b : List Byte) : List Byte :=
  [BitVec.ofNat 8 (padLen b.length)] ++ List.replicate (padLen b.length) 0#8 ++ b

/-- `PZ85Encode(b)` (R165). -/
def pz85Encode (alphabet : List Sym) (b : List Byte) : FrameResult := z85Encode alphabet (inner b)

/-- `PZ85Decode(s)` (R173). -/
def pz85Decode (alphabet : List Sym) (x : List Byte) : FrameResult :=
  match z85Decode alphabet x with
  | .soft c => .soft c
  | .fatal => .fatal
  | .ok buffer ovf =>
    let p := (buffer.getD 0 0#8).toNat
    if 4 ≤ p then .fatal else .ok (buffer.drop (1 + p)) ovf

/-- The frame-level result of a command for its input frame (R193). -/
def frameResult (alphabet : List Sym) (i : Instr) (f : List Byte) : FrameResult :=
  match i with
  | .z85e _ => z85Encode alphabet f
  | .z85d _ => z85Decode alphabet f
  | .pz85e _ => pz85Encode alphabet f
  | .pz85d _ => pz85Decode alphabet f
  | .encg _ => z85Encode alphabet f
  | .decg _ => z85Decode alphabet f
  | .op6 _ => .soft .illegalOp
  | .op7 _ => .soft .illegalOp

/-- The bytes of the groups before the first bad group (R147). -/
def goodBytes (alphabet : List Sym) (x : List Byte) : List Byte :=
  groupBytes ((decodeGroups alphabet x).takeWhile (fun g => !g.bad))

/-- The void items of a frame that ends in BAD_SYMBOL: the bytes of the groups before the first bad one,
stripped on `PZ85D`, none if the header was out of range (R175, R212; 60_exceptions.md R244). -/
def voidItems (alphabet : List Sym) (i : Instr) (x : List Byte) : List Byte :=
  match i with
  | .pz85d _ =>
    let p := ((goodBytes alphabet x).getD 0 0#8).toNat
    if 4 ≤ p then [] else (goodBytes alphabet x).drop (1 + p)
  | _ => goodBytes alphabet x

/-- The items that the OUT steps of a frame deliver, void ones included (R212, R215). -/
def frameItems (alphabet : List Sym) (i : Instr) (f : List Byte) : List Byte :=
  match frameResult alphabet i f with
  | .ok data _ => data
  | .soft .badSymbol => voidItems alphabet i f
  | .soft _ => []
  | .fatal => []

/-- The status of a frame (R215). -/
def frameStatus (alphabet : List Sym) (i : Instr) (f : List Byte) : Status :=
  match frameResult alphabet i f with
  | .ok _ _ => .ok
  | .soft c => c
  | .fatal => .outOfRange

/-- The overflow flag reported with a frame: some completed group of a decode frame, a bad one included,
had a value of `2^32` or more (43_core_control.md R205; 30_encoding.md R76). -/
def frameOvf (alphabet : List Sym) (i : Instr) (f : List Byte) : Bool :=
  match frameResult alphabet i f, i with
  | .soft .invalidLength, _ => false
  | _, .z85d _ => (decodeGroups alphabet f).any (fun g => g.ovf)
  | _, .pz85d _ => (decodeGroups alphabet f).any (fun g => g.ovf)
  | _, .decg _ => (decodeGroups alphabet f).any (fun g => g.ovf)
  | _, _ => false

/-- Everything the sink takes of a frame, in order: its items, then its one status word (R213, R215). -/
def frameDeliveries (alphabet : List Sym) (i : Instr) (f : List Byte) : List Delivery :=
  (frameItems alphabet i f).map Delivery.item ++
    [Delivery.status { status := frameStatus alphabet i f, ovf := frameOvf alphabet i f }]

end Sys2Proof.Machine
end

