-- ==== Sys2Proof/Machine/Ports.lean ====
section
/-! DEFINITION. The ports of one core and a clock cycle on them (30_encoding.md R77, R78), read off the same
state and the same steps. The spec lets a `ready` or a `valid` be 1 only in states where the step is enabled;
these pins are 1 in all of them (log entry 12). `step` reads none of this. -/
namespace Sys2Proof.Machine

/-- The values on the input ports in one cycle, `cmd_len` on its `LENW` wires (R77). -/
structure InputPins (lenw : Nat) where
  rst : Bool
  cmdValid : Bool
  cmdOp : Opcode
  cmdLen : BitVec lenw
  inValid : Bool
  inData : Byte
  outReady : Bool
  doneReady : Bool
deriving DecidableEq, Repr

/-- The values on the output ports in one cycle (R77). A payload is `none` in a cycle in which its channel's
`valid` is 0, where it carries no meaning (R78; 93_implementation_defined.md U12). -/
structure OutputPins where
  cmdReady : Bool
  inReady : Bool
  outValid : Bool
  outData : Option Byte
  doneValid : Bool
  doneStatus : Option (BitVec 3)
  doneOvf : Option Bool
  fatal : Bool
deriving DecidableEq, Repr

/-- The pin `fatal`: 1 exactly in HALT (60_exceptions.md R241). -/
def fatalPin (s : State) : Bool := decide (s.st = .halt)

/-- The output ports in a cycle with the given `rst`: while `rst` is 1 no channel is ready or valid (R78,
70_reset_and_hazards.md R260). -/
def outputPins (rst : Bool) (s : State) : OutputPins :=
  { cmdReady := !rst && canCmd s
    inReady := !rst && canIn s
    outValid := !rst && canOut s
    outData := if !rst && canOut s then s.oq.head? else none
    doneValid := !rst && canDone s
    doneStatus := if !rst && canDone s then some (doneWord s).status.code else none
    doneOvf := if !rst && canDone s then some (doneWord s).ovf else none
    fatal := fatalPin s }

/-- The OUT beat of a cycle, if there is one (R78). -/
def outBeat (s : State) (p : InputPins s.cfg.lenw) : State :=
  if (outputPins p.rst s).outValid && p.outReady then outStep s else s

/-- The one step other than OUT that a cycle can take from `s`, applied to `t`: at most one of CMD, PREFIX,
IN and DONE is enabled in a state (43_core_control.md R214). -/
def otherBeat (s : State) (p : InputPins s.cfg.lenw) (t : State) : State :=
  if (outputPins p.rst s).cmdReady && p.cmdValid then cmdStep p.cmdOp p.cmdLen.toNat t
  else if canPrefix s then prefixStep t
  else if (outputPins p.rst s).inReady && p.inValid then inStep p.inData t
  else if (outputPins p.rst s).doneValid && p.doneReady then doneStep t
  else t

/-- The state after a rising edge of `clk` with these inputs: the RESET step while `rst` is 1 (R260), else
the beats whose `valid` and `ready` are both 1 in this cycle, the OUT beat first (R78; log entry 13), and an enabled
PREFIX step (log entry 19). -/
def clockEdge (s : State) (p : InputPins s.cfg.lenw) : State :=
  if p.rst then resetStep s else otherBeat s p (outBeat s p)

end Sys2Proof.Machine
end

