-- ==== Sys2Proof/Safety.lean ====
section
/-! DEFINITION. What holds of every reachable state (10_state.md R37), in the terms the statements use. -/
namespace Sys2Proof.Machine

/-- The widths that `LENW` gives (R22, R70): the length register and the words offered to the core. -/
abbrev WidthsOk (s : State) : Prop :=
  s.lenR < 2 ^ s.cfg.lenw ∧ ∀ w ∈ s.cmdCh, w < 2 ^ (s.cfg.lenw + 3)

/-- R37 (a): outside a frame the queue and the datapath are empty. -/
abbrev EmptyOutsideFrame (s : State) : Prop :=
  s.st ≠ .busy →
    s.oq = [] ∧ s.preN = 0#3 ∧ s.packN = 0#2 ∧ s.decN = 0#3 ∧ s.decBad = false ∧ s.decOvf = false

/-- R37 (b): the packer holds at most `pack_n` bytes. -/
abbrev PackerBounded (s : State) : Prop := s.packAcc.toNat < 256 ^ s.packN.toNat

/-- R37 (c): the decoder holds at most `dec_n` digits. -/
abbrev DecoderBounded (s : State) : Prop := s.decN.toNat ≤ 4 ∧ s.decAcc.toNat < 85 ^ s.decN.toNat

/-- R37 (d): no running value overflows between steps. -/
abbrev NoPendingOverflow (s : State) : Prop := s.decOvf = false

/-- R37 (e): prefix bytes are due on `PZ85E` only, at most 4. -/
abbrev PrefixBounded (s : State) : Prop := s.preN.toNat ≤ 4 ∧ (s.preN ≠ 0#3 → s.opR = 2#3)

/-- R37 (f): no more items are consumed than the frame needs. -/
abbrev CountBounded (s : State) : Prop := s.inCnt ≤ need s.opR s.lenR

/-- The number of bytes fed to the packer so far, with R37 (g)'s count for `PZ85E`. -/
def bytesFed (s : State) : Nat :=
  if s.opR = 2#3 then (1 + padLen s.lenR - s.preN.toNat) + s.inCnt else s.inCnt

/-- R37 (g): `pack_n` is the number of bytes fed, modulo 4. -/
abbrev PackerInStep (s : State) : Prop :=
  s.opR[0] = false → early s.opR s.lenR = none → bytesFed s % 4 = s.packN.toNat

/-- R37 (h): `dec_n` is the number of symbols consumed, modulo 5. -/
abbrev DecoderInStep (s : State) : Prop :=
  s.opR[0] = true → early s.opR s.lenR = none → s.inCnt % 5 = s.decN.toNat

/-- R37 (i): a header out of range belongs to a `PZ85D` frame past its first group. -/
abbrev HeaderFlagOk (s : State) : Prop := s.oor = true → s.opR = 3#3 ∧ s.firstGrp = false

/-- R37 (j): the queue is within its capacity. -/
abbrev QueueBounded (s : State) : Prop := s.oq.length ≤ s.cfg.oqDepth

/-- What ties the clauses of R37 together so that a step keeps them: prefix bytes left are prefix bytes of
this length (R167), a command uses only its own side of the datapath (R25, R35), a frame that failed early
moved nothing (R200), and between two decode groups no bad symbol is pending (R138). -/
abbrev UnusedSideIdle (s : State) : Prop :=
  (s.opR = 2#3 → s.preN.toNat ≤ 1 + padLen s.lenR) ∧
  (s.preN ≠ 0#3 → s.inCnt = 0) ∧
  (s.opR[0] = false ∨ early s.opR s.lenR ≠ none →
    s.decAcc = 0#32 ∧ s.decN = 0#3 ∧ s.decBad = false ∧ s.badR = false ∧ s.ovfR = false ∧ s.oor = false) ∧
  (s.opR[0] = true ∨ early s.opR s.lenR ≠ none → s.packAcc = 0#32 ∧ s.packN = 0#2) ∧
  (early s.opR s.lenR ≠ none → s.oq = [] ∧ s.preN = 0#3) ∧
  (s.decN = 0#3 → s.decBad = false) ∧
  (s.st = .halt → s.opR = 3#3 ∧ s.oor = true ∧ s.badR = false)

/-- The invariants (a) to (j) of R37 with the legal parameters of R6 and what carries them over a step. -/
structure Inv (s : State) : Prop where
  legal : s.cfg.Legal
  widths : WidthsOk s
  a : EmptyOutsideFrame s
  b : PackerBounded s
  c : DecoderBounded s
  d : NoPendingOverflow s
  e : PrefixBounded s
  f : CountBounded s
  g : PackerInStep s
  h : DecoderInStep s
  i : HeaderFlagOk s
  j : QueueBounded s
  idle : UnusedSideIdle s

/-- `k` steps of the machine. -/
def runs (k : Nat) (s : State) : Host.Outcome State Fault Refusal := Host.Core.run Sys2Proof.core k s

/-- The schedule holds no RESET. -/
abbrev NoReset (s : State) : Prop := ∀ t ∈ s.sched, t ≠ .reset

/-- The output items among the beats that the sink has taken, the oldest first. -/
def deliveredItems (ds : List Delivery) : List Byte :=
  ds.filterMap (fun d => match d with
    | .item b => some b
    | .status _ => none)

end Sys2Proof.Machine
end

