-- ==== Sys2Proof/Certificates/Slice0/Obligations.lean ====
section
/-! DEFINITION. The statements for the provers. A statement about one step gives the whole next state, so that
every field it does not name is unchanged; `exec i s` is one step of the command `i`, chosen by `turn s`. -/

open Sys2Proof Sys2Proof.Machine

/-! ### Encoding (30_encoding.md) -/

/-- R70, R72, R73: the command word of every command that fits decodes to it, and every number that decodes
is the command word of what it decodes to; exactly the numbers of more than `LENW + 3` bits do not decode. -/
def Obligations.CommandWordsDecodeAndEncodeAgree : Prop :=
  ∀ lenw : Nat,
    (∀ i : Instr, i.wellFormed lenw = true →
      decode lenw (encode i) = .ok i ∧ encode i < 2 ^ (lenw + 3)) ∧
    (∀ (w : Nat) (i : Instr), decode lenw w = .ok i → i.wellFormed lenw = true ∧ encode i = w) ∧
    (∀ w : Nat, decode lenw w = .error .commandTooWide ↔ 2 ^ (lenw + 3) ≤ w)

/-- R70, R72: words written out bit by bit, `cmd_len` above `cmd_op`, for `LENW = 16`. -/
def Obligations.TableWordsDecodeToTheirCommands : Prop :=
  decode 16 0b0000000000001000000 = .ok (.z85e 8) ∧
  decode 16 0b0000000000001010001 = .ok (.z85d 10) ∧
  decode 16 0b0000000000000001010 = .ok (.pz85e 1) ∧
  decode 16 0b0000000000000101011 = .ok (.pz85d 5) ∧
  decode 16 0b0000000000000111100 = .ok (.encg 7) ∧
  decode 16 0b0000000000000011101 = .ok (.decg 3) ∧
  decode 16 0b1111111111111111110 = .ok (.op6 65535) ∧
  decode 16 0b0000000000001001111 = .ok (.op7 9) ∧
  decode 16 0b10000000000000000000 = .error .commandTooWide

/-- R76: the status word is `done_ovf` above the code of the status, the codes are those of the table, and
codes 6 and 7 are never produced. -/
def Obligations.StatusWordHasTheTableCodes : Prop :=
  (∀ d : DoneWord, d.bits.toNat = d.status.code.toNat + (if d.ovf then 8 else 0)) ∧
  Status.ok.code = 0#3 ∧ Status.invalidLength.code = 1#3 ∧ Status.emptyInput.code = 2#3 ∧
  Status.badSymbol.code = 3#3 ∧ Status.illegalOp.code = 4#3 ∧ Status.outOfRange.code = 5#3 ∧
  (∀ x : Status, x.code ≠ 6#3 ∧ x.code ≠ 7#3) ∧
  (∀ x y : Status, x.code = y.code → x = y)

/-! ### The step -/

/-- R190, R191, R199: the command offered on the port is the one that an idle core's CMD turn runs, and on
the turns of a frame the step runs the command that the registers hold. -/
def Obligations.StepRunsTheDecodedCommand : Prop :=
  (∀ (i : Instr) (s : State) (w : Nat) (ws : List Nat),
    s.st = .idle → turn s = .cmd → s.cmdCh = w :: ws → decode s.cfg.lenw w = .ok i →
      step s = exec i s) ∧
  (∀ (i : Instr) (s : State) (ws : List Nat),
    s.st = .idle → turn s = .cmd → i.wellFormed s.cfg.lenw = true → s.cmdCh = encode i :: ws →
      step s = exec i s) ∧
  (∀ (i : Instr) (s : State),
    s.opR = i.op → s.lenR = i.len → turn s ≠ .cmd → turn s ≠ .reset → step s = exec i s) ∧
  (∀ s : State, turn s = .cmd → s.st = .idle → s.cmdCh = [] →
    step s = .next { s with sched := s.sched.tail })

/-- Every state has a next state, unless the host side holds a number that is no command word where an idle
core looks for one (93_implementation_defined.md, end of part 1, and U7; the refusal is the model's, log
entry 9). -/
def Obligations.StepIsTotalOnCommandWords : Prop :=
  (∀ s : State, (∃ t, step s = .next t) ∨ step s = .refused .commandTooWide) ∧
  (∀ s : State, step s = .refused .commandTooWide ↔
    turn s = .cmd ∧ s.st = .idle ∧ ∃ w ws, s.cmdCh = w :: ws ∧ 2 ^ (s.cfg.lenw + 3) ≤ w)

/-- R192: in IDLE each of the eight commands is accepted, with every register but `oq` written. -/
def Obligations.IdleCoreAcceptsEveryCommand : Prop :=
  ∀ (i : Instr) (s : State), s.st = .idle → turn s = .cmd →
    exec i s = .next { s with
      st := .busy, opR := i.op, lenR := i.len, inCnt := 0
      packAcc := 0#32, packN := 0#2
      decAcc := 0#32, decN := 0#3, decBad := false, decOvf := false
      firstGrp := true, oor := false, badR := false, ovfR := false
      preN := if i.op = 2#3 then BitVec.ofNat 3 (1 + padLen i.len) else 0#3
      cmdCh := s.cmdCh.tail, sched := s.sched.tail }

/-- R191: CMD is enabled, and `cmd_ready` is 1, in IDLE only; elsewhere a command waits on the channel. -/
def Obligations.CommandWaitsOutsideIdle : Prop :=
  (∀ s : State, canCmd s = true ↔ s.st = .idle) ∧
  (∀ (rst : Bool) (s : State), (outputPins rst s).cmdReady = true → s.st = .idle) ∧
  (∀ (i : Instr) (s : State), s.st ≠ .idle → turn s = .cmd →
    exec i s = .next { s with sched := s.sched.tail } ∧ step s = .next { s with sched := s.sched.tail })

/-- R197, R199, R207, R209 and log entry 6: a turn whose step is not enabled, or whose item is not offered, or
that belongs to another command than the one in progress, changes nothing but the schedule. -/
def Obligations.TurnWithoutBeatChangesNothing : Prop :=
  ∀ (i : Instr) (s : State),
    (turn s = .pfx ∧ ¬ (s.st = .busy ∧ s.preN ≠ 0#3 ∧ s.oq.length + 5 ≤ s.cfg.oqDepth)) ∨
    (turn s = .inp ∧ ¬ (s.st = .busy ∧ s.preN = 0#3 ∧ s.inCnt < need s.opR s.lenR ∧
      s.oq.length + 5 ≤ s.cfg.oqDepth)) ∨
    (turn s = .inp ∧ s.inCh = []) ∨
    (turn s = .out ∧ s.oq = []) ∨
    (turn s = .done ∧ ¬ (s.st = .busy ∧ s.preN = 0#3 ∧ s.inCnt = need s.opR s.lenR ∧ s.oq = [])) ∨
    (turn s ≠ .cmd ∧ turn s ≠ .reset ∧ ¬ (s.opR = i.op ∧ s.lenR = i.len)) →
    exec i s = .next { s with sched := s.sched.tail }

/-- R198 with R162, R167, R101, R104: the PREFIX step of `PZ85E` feeds the header first and zero bytes after
it to the packer, and the fourth byte of a group appends its five symbols. -/
def Obligations.PrefixStepFeedsHeaderThenZeros : Prop :=
  ∀ (len : Nat) (s : State), s.st = .busy → s.opR = 2#3 → s.lenR = len → turn s = .pfx →
    s.preN ≠ 0#3 → s.oq.length + 5 ≤ s.cfg.oqDepth →
    let b : Byte := if s.preN.toNat = 1 + padLen len then BitVec.ofNat 8 (padLen len) else 0#8
    let t : Word := s.packAcc * 256#32 + b.zeroExtend 32
    (s.packN ≠ 3#2 → exec (.pz85e len) s = .next { s with
      preN := s.preN - 1#3, packAcc := t, packN := s.packN + 1#2, sched := s.sched.tail }) ∧
    (s.packN = 3#2 → exec (.pz85e len) s = .next { s with
      preN := s.preN - 1#3, packAcc := 0#32, packN := 0#2, sched := s.sched.tail
      oq := s.oq ++ [85 ^ 4, 85 ^ 3, 85 ^ 2, 85, 1].map (fun p =>
        (s.cfg.alphabet.getD (t.toNat / p % 85) 0#7).zeroExtend 8) })

/-- R201 with R162, R101, R104, R202: the IN step of `Z85E`, `PZ85E` and `ENCG` packs the item big-endian, and
the fourth byte of a group appends its five symbols, the most significant digit's first, and clears the
packer. -/
def Obligations.EncodeInputPacksAndEmitsGroups : Prop :=
  ∀ (len : Nat) (i : Instr) (s : State) (x : Byte) (rest : List Byte),
    (i = .z85e len ∨ i = .pz85e len ∨ i = .encg len) →
    s.st = .busy → s.opR = i.op → s.lenR = len → turn s = .inp → s.inCh = x :: rest →
    s.preN = 0#3 → s.inCnt < need i.op len → s.oq.length + 5 ≤ s.cfg.oqDepth → early i.op len = none →
    let t : Word := s.packAcc * 256#32 + x.zeroExtend 32
    (s.packN ≠ 3#2 → exec i s = .next { s with
      inCnt := s.inCnt + 1, inCh := rest, packAcc := t, packN := s.packN + 1#2, sched := s.sched.tail }) ∧
    (s.packN = 3#2 → exec i s = .next { s with
      inCnt := s.inCnt + 1, inCh := rest, packAcc := 0#32, packN := 0#2, sched := s.sched.tail
      oq := s.oq ++ [85 ^ 4, 85 ^ 3, 85 ^ 2, 85, 1].map (fun p =>
        (s.cfg.alphabet.getD (t.toNat / p % 85) 0#7).zeroExtend 8) })

/-- R203 with R135: the IN step of `Z85D`, `PZ85D` and `DECG` before the fifth symbol of a group. -/
def Obligations.DecodeInputAccumulates : Prop :=
  ∀ (len : Nat) (i : Instr) (s : State) (x : Byte) (rest : List Byte),
    (i = .z85d len ∨ i = .pz85d len ∨ i = .decg len) →
    s.st = .busy → s.opR = i.op → s.lenR = len → turn s = .inp → s.inCh = x :: rest →
    s.preN = 0#3 → s.inCnt < need i.op len → s.oq.length + 5 ≤ s.cfg.oqDepth → early i.op len = none →
    s.decN ≠ 4#3 →
    let e := decLookup s.cfg.alphabet x
    let t := s.decAcc.toNat * 85 + e.digit.toNat
    exec i s = .next { s with
      inCnt := s.inCnt + 1, inCh := rest, sched := s.sched.tail
      decAcc := BitVec.ofNat 32 t, decN := s.decN + 1#3
      decBad := s.decBad || !e.valid, decOvf := s.decOvf || decide (2 ^ 32 ≤ t) }

/-- R205 and R206: the IN step of `Z85D`, `PZ85D` and `DECG` on the fifth symbol collects the group's flags,
checks and strips the header of a `PZ85D` frame's first group, appends the bytes that are not suppressed and
leaves the decoder empty. -/
def Obligations.DecodeGroupCompletionChecksAndEmits : Prop :=
  ∀ (len : Nat) (i : Instr) (s : State) (x : Byte) (rest : List Byte),
    (i = .z85d len ∨ i = .pz85d len ∨ i = .decg len) →
    s.st = .busy → s.opR = i.op → s.lenR = len → turn s = .inp → s.inCh = x :: rest →
    s.preN = 0#3 → s.inCnt < need i.op len → s.oq.length + 5 ≤ s.cfg.oqDepth → early i.op len = none →
    s.decN = 4#3 →
    let e := decLookup s.cfg.alphabet x
    let t := s.decAcc.toNat * 85 + e.digit.toNat
    let w : Word := BitVec.ofNat 32 t
    let b := s.decBad || !e.valid
    let header := decide (i = .pz85d len) && s.firstGrp && !b
    let p := t / 2 ^ 24 % 256
    let bad' := s.badR || b
    let oor' := s.oor || (header && decide (4 ≤ p))
    let skip := if header = true ∧ p < 4 then 1 + p else 0
    exec i s = .next { s with
      inCnt := s.inCnt + 1, inCh := rest, sched := s.sched.tail
      decAcc := 0#32, decN := 0#3, decBad := false, decOvf := false
      badR := bad', ovfR := s.ovfR || (s.decOvf || decide (2 ^ 32 ≤ t)), oor := oor', firstGrp := false
      oq := s.oq ++ (if bad' = false ∧ oor' = false then
        [w.extractLsb' 24 8, w.extractLsb' 16 8, w.extractLsb' 8 8, w.extractLsb' 0 8].drop skip else []) }

/-- R200: after an early failure the IN step discards the item; among the frames that take items at all, only
those of a bad length do so. -/
def Obligations.EarlyFailureDiscardsInput : Prop :=
  (∀ (i : Instr) (s : State) (x : Byte) (rest : List Byte),
    s.st = .busy → s.opR = i.op → s.lenR = i.len → turn s = .inp → s.inCh = x :: rest →
    s.preN = 0#3 → s.inCnt < need i.op i.len → s.oq.length + 5 ≤ s.cfg.oqDepth →
    early i.op i.len ≠ none →
    exec i s = .next { s with inCnt := s.inCnt + 1, inCh := rest, sched := s.sched.tail }) ∧
  (∀ i : Instr, early i.op i.len ≠ none → 0 < need i.op i.len →
    early i.op i.len = some .invalidLength)

/-- R207: OUT is enabled, and `out_valid` is 1, exactly when the queue holds an item, which happens in BUSY
only; the step delivers the head and changes nothing else. -/
def Obligations.OutStepDeliversTheHead : Prop :=
  (∀ (i : Instr) (s : State) (y : Byte) (rest : List Byte),
    s.opR = i.op → s.lenR = i.len → turn s = .out → s.oq = y :: rest →
    exec i s = .next { s with
      oq := rest, sink := s.sink ++ [Delivery.item y], sched := s.sched.tail }) ∧
  (∀ s : State, canOut s = true ↔ s.oq ≠ []) ∧
  (∀ (rst : Bool) (s : State), (outputPins rst s).outValid = true →
    s.oq ≠ [] ∧ (outputPins rst s).outData = s.oq.head?) ∧
  (∀ s : State, Inv s → s.oq ≠ [] → s.st = .busy)

/-- R209, R210: for each of the eight commands the DONE step delivers the status by the precedence of R210 and
`ovf_r`, which is 0 on encode commands and after early failures, and enters HALT on OUT_OF_RANGE only. -/
def Obligations.DoneStepReportsTheStatus : Prop :=
  (∀ (i : Instr) (s : State),
    s.st = .busy → s.opR = i.op → s.lenR = i.len → turn s = .done →
    s.preN = 0#3 → s.inCnt = need i.op i.len → s.oq = [] →
    let status : Status := (early i.op i.len).getD
      (if s.badR then .badSymbol else if s.oor then .outOfRange else .ok)
    exec i s = .next { s with
      sink := s.sink ++ [Delivery.status { status := status, ovf := s.ovfR }]
      st := if status = .outOfRange then .halt else .idle
      sched := s.sched.tail }) ∧
  (∀ s : State, canDone s = true ↔
    s.st = .busy ∧ s.preN = 0#3 ∧ s.inCnt = need s.opR s.lenR ∧ s.oq = []) ∧
  (∀ (rst : Bool) (s : State), (outputPins rst s).doneValid = true → canDone s = true) ∧
  (∀ (i : Instr) (s : State), Inv s → s.opR = i.op → s.lenR = i.len →
    ((∃ n, i = .z85e n ∨ i = .pz85e n ∨ i = .encg n) ∨ early i.op i.len ≠ none) → s.ovfR = false)

/-- R84 (a), R233: from IDLE a reserved opcode ends two steps later in ILLEGAL_OP, whatever its length operand,
with no item taken or delivered and the core back in IDLE. -/
def Obligations.ReservedOpcodeEndsInIllegalOp : Prop :=
  ∀ (i : Instr) (s : State) (len : Nat) (ws : List Nat),
    (i = .op6 len ∨ i = .op7 len) → i.wellFormed s.cfg.lenw = true →
    s.st = .idle → s.oq = [] → s.sched = [] → s.cmdCh = encode i :: ws →
    ∃ t, runs 2 s = .next t ∧ t.st = .idle ∧ t.cmdCh = ws ∧ t.inCh = s.inCh ∧ t.oq = [] ∧
      t.sink = s.sink ++ [Delivery.status { status := .illegalOp, ovf := false }]

/-! ### Reset, the fatal state and the pins -/

/-- R39: RESET leaves every register of R22 at its reset value and the tables as they are, and the model's
initial state is such a state. -/
def Obligations.ResetLeavesTheSpecifiedValues : Prop :=
  (∀ s : State,
    (resetStep s).st = .idle ∧ (resetStep s).opR = 0#3 ∧ (resetStep s).lenR = 0 ∧
    (resetStep s).inCnt = 0 ∧ (resetStep s).badR = false ∧ (resetStep s).ovfR = false ∧
    (resetStep s).oq = [] ∧ (resetStep s).preN = 0#3 ∧ (resetStep s).packAcc = 0#32 ∧
    (resetStep s).packN = 0#2 ∧ (resetStep s).firstGrp = false ∧ (resetStep s).oor = false ∧
    (resetStep s).decAcc = 0#32 ∧ (resetStep s).decN = 0#3 ∧ (resetStep s).decBad = false ∧
    (resetStep s).decOvf = false ∧ (resetStep s).cfg = s.cfg) ∧
  resetStep State.reset = State.reset

/-- R260, R261: RESET happens whatever the state and the command in progress, loses the queue, leaves the
channels and what the sink took alone, is one clock edge with `rst = 1`, and no channel is ready or valid
while `rst` is 1. -/
def Obligations.ResetStepFromEveryState : Prop :=
  ∀ s : State,
    (turn s = .reset →
      step s = .next { s with
        st := .idle, opR := 0#3, lenR := 0, inCnt := 0, badR := false, ovfR := false, oq := []
        preN := 0#3, packAcc := 0#32, packN := 0#2, firstGrp := false, oor := false
        decAcc := 0#32, decN := 0#3, decBad := false, decOvf := false, sched := s.sched.tail } ∧
      ∀ i : Instr, exec i s = step s) ∧
    (∀ p : InputPins s.cfg.lenw, p.rst = true → clockEdge s p = resetStep s) ∧
    (outputPins true s).cmdReady = false ∧ (outputPins true s).inReady = false ∧
    (outputPins true s).outValid = false ∧ (outputPins true s).doneValid = false ∧
    fatalPin (resetStep s) = false ∧ canCmd (resetStep s) = true ∧
    resetStep (resetStep s) = resetStep s

/-- R218: in HALT nothing but RESET happens, however many steps pass and whatever is offered; the channels are
neither ready nor valid and `fatal` is 1. -/
def Obligations.HaltIsLeftByResetOnly : Prop :=
  ∀ s : State, s.st = .halt → s.oq = [] →
    (∀ k : Nat, NoReset s → runs k s = .next { s with sched := s.sched.drop k }) ∧
    (∀ rst : Bool, (outputPins rst s).cmdReady = false ∧ (outputPins rst s).inReady = false ∧
      (outputPins rst s).outValid = false ∧ (outputPins rst s).doneValid = false ∧
      (outputPins rst s).fatal = true)

/-- R23: the only transitions of `st` are IDLE to BUSY by CMD, BUSY to IDLE by DONE with a status other than
OUT_OF_RANGE, BUSY to HALT by DONE with OUT_OF_RANGE, and any state to IDLE by RESET; `fatal` is 1 exactly in
HALT. -/
def Obligations.ControlStateTransitions : Prop :=
  (∀ s t : State, step s = .next t →
    (turn s = .reset ∧ t.st = .idle) ∨
    (turn s ≠ .reset ∧ t.st = s.st) ∨
    (turn s = .cmd ∧ s.st = .idle ∧ t.st = .busy) ∨
    (turn s = .done ∧ s.st = .busy ∧ t.st = .idle ∧ (doneWord s).status ≠ .outOfRange) ∨
    (turn s = .done ∧ s.st = .busy ∧ t.st = .halt ∧ (doneWord s).status = .outOfRange)) ∧
  (∀ (rst : Bool) (s : State), (outputPins rst s).fatal = true ↔ s.st = .halt)

/-- R78, R214: with IN and OUT enabled and `in_valid` and `out_ready` at 1, one clock cycle gives the state of the
two steps in either order; so it does with PREFIX and OUT; and a cycle without RESET and without an enabled PREFIX
step, in which the host raises none of `cmd_valid`, `in_valid`, `out_ready` and `done_ready`, changes nothing.
That the enabled steps have their beats in that cycle is the model's choice of log entry 12 (a `ready` or `valid`
of the core is 1 as soon as its step is enabled, where R78 lets it rise later), and that an enabled PREFIX step
happens in every cycle is that of log entry 19; that `clockEdge` takes OUT first is the inference of log entry
13. -/
def Obligations.CoincidentBeatsAreTwoSteps : Prop :=
  (∀ (s : State) (p : InputPins s.cfg.lenw), p.rst = false → canIn s = true → canOut s = true →
    p.inValid = true → p.outReady = true →
    clockEdge s p = inStep p.inData (outStep s) ∧ clockEdge s p = outStep (inStep p.inData s)) ∧
  (∀ (s : State) (p : InputPins s.cfg.lenw), p.rst = false → canPrefix s = true → canOut s = true →
    p.outReady = true →
    clockEdge s p = prefixStep (outStep s) ∧ clockEdge s p = outStep (prefixStep s)) ∧
  (∀ (s : State) (p : InputPins s.cfg.lenw), p.rst = false → canPrefix s = false →
    p.cmdValid = false → p.inValid = false → p.outReady = false → p.doneReady = false →
    clockEdge s p = s)

/-- R70, R77, R78: in IDLE with `cmd_valid` at 1, a clock edge without RESET is the CMD step of the command word
`cmd_len * 8 + cmd_op`, a command that fits, and `exec` of that command takes the same step and the offered word.
That the command channel has its beat at this edge is the model's choice of log entry 12 (`cmd_ready` is 1 as soon
as CMD is enabled, where R78 and R191 let it rise later). -/
def Obligations.CommandBeatIsTheCommandWord : Prop :=
  ∀ (s : State) (p : InputPins s.cfg.lenw), p.rst = false → s.st = .idle → s.oq = [] → p.cmdValid = true →
    ∃ i : Instr, i.op = p.cmdOp ∧ i.len = p.cmdLen.toNat ∧
      encode i = p.cmdLen.toNat * 8 + p.cmdOp.toNat ∧ decode s.cfg.lenw (encode i) = .ok i ∧
      clockEdge s p = cmdStep i.op i.len s ∧ (clockEdge s p).lenR < 2 ^ s.cfg.lenw ∧
      (turn s = .cmd → exec i s = .next (passTurn (takeCommand (clockEdge s p))))

/-- R37, R77, R78: a clock edge keeps the invariants, whatever is on the input ports, with the beats and the
PREFIX step that log entries 12, 13 and 19 give it. -/
def Obligations.ClockEdgeKeepsTheInvariants : Prop :=
  ∀ (s : State) (p : InputPins s.cfg.lenw), Inv s → Inv (clockEdge s p)

/-- R214: OUT commutes with IN and with PREFIX and never disables them; of CMD, PREFIX, IN and DONE at most one
is enabled, and DONE and CMD exclude OUT. -/
def Obligations.EnabledStepsCommute : Prop :=
  (∀ (x : Byte) (s : State), s.oq ≠ [] → outStep (inStep x s) = inStep x (outStep s)) ∧
  (∀ s : State, s.oq ≠ [] → outStep (prefixStep s) = prefixStep (outStep s)) ∧
  (∀ s : State, (canIn s = true → canIn (outStep s) = true) ∧
    (canPrefix s = true → canPrefix (outStep s) = true)) ∧
  (∀ (x : Byte) (s : State), canOut s = true →
    canOut (inStep x s) = true ∧ canOut (prefixStep s) = true) ∧
  (∀ s : State, Inv s →
    (canCmd s = true → canPrefix s = false ∧ canIn s = false ∧ canDone s = false ∧ canOut s = false) ∧
    (canPrefix s = true → canIn s = false ∧ canDone s = false) ∧
    (canIn s = true → canDone s = false) ∧
    (canDone s = true → canOut s = false) ∧
    (s.st = .halt → canCmd s = false ∧ canPrefix s = false ∧ canIn s = false ∧ canDone s = false ∧
      canOut s = false))

/-- R274: while the queue holds more than `OQ_DEPTH - 5` items and the sink takes none, no step happens in a
busy core: no item is accepted, no prefix byte inserted, no status offered. -/
def Obligations.StalledSinkStopsTheCore : Prop :=
  ∀ (s : State) (k : Nat), 5 ≤ s.cfg.oqDepth → s.st = .busy → s.cfg.oqDepth < s.oq.length + 5 →
    k ≤ s.sched.length → (∀ t ∈ s.sched, t ≠ .out ∧ t ≠ .reset) →
    runs k s = .next { s with sched := s.sched.drop k }

/-- R33: the queue is first in, first out: whatever a step other than RESET does, the items delivered so far
followed by the items queued only grow at the end, by at most five. -/
def Obligations.QueueKeepsItemOrder : Prop :=
  ∀ s t : State, step s = .next t → turn s ≠ .reset →
    ∃ new : List Byte, new.length ≤ 5 ∧
      deliveredItems t.sink ++ t.oq = deliveredItems s.sink ++ s.oq ++ new

/-- R34, R62, R264: no step writes a parameter or a table; what the sink took is never recalled (R58), and the
channels only lose what was offered first (R56). -/
def Obligations.StepKeepsParametersAndDeliveries : Prop :=
  ∀ s t : State, step s = .next t →
    t.cfg = s.cfg ∧ (∃ d, d.length ≤ 1 ∧ t.sink = s.sink ++ d) ∧
    (t.cmdCh = s.cmdCh ∨ t.cmdCh = s.cmdCh.tail) ∧ (t.inCh = s.inCh ∨ t.inCh = s.inCh.tail)

/-- R61: when a status word is delivered, every item of the frame has been consumed and every output item
delivered. -/
def Obligations.StatusComesAfterAllItems : Prop :=
  ∀ (s t : State) (d : DoneWord), step s = .next t → t.sink = s.sink ++ [Delivery.status d] →
    s.st = .busy ∧ s.preN = 0#3 ∧ s.inCnt = need s.opR s.lenR ∧ s.oq = [] ∧ d = doneWord s ∧
    t.st ≠ .busy

/-- R35, R60 (5): two idle cores that differ only in what earlier frames left in their registers accept a
command into the same state. -/
def Obligations.EarlierFramesDoNotInfluenceTheNext : Prop :=
  ∀ (s u : State) (w : Nat) (ws : List Nat),
    s.cfg = u.cfg → s.st = .idle → u.st = .idle → s.oq = [] → u.oq = [] →
    s.cmdCh = w :: ws → u.cmdCh = w :: ws → s.inCh = u.inCh → s.sink = u.sink → s.sched = u.sched →
    turn s = .cmd → step s = step u

/-! ### Invariants (10_state.md R37) -/

/-- The invariants hold after reset. -/
def Obligations.InvariantsHoldAtReset : Prop :=
  Inv State.reset ∧ ∀ s : State, s.cfg.Legal → (∀ w ∈ s.cmdCh, w < 2 ^ (s.cfg.lenw + 3)) → Inv (resetStep s)

/-- Every step keeps the invariants, from every state that has them. -/
def Obligations.StepKeepsTheInvariants : Prop :=
  ∀ s t : State, Inv s → step s = .next t → Inv t

/-- R37: the invariants hold in every state that a run from a reset state reaches, with any legal parameters
and whatever the host offers in whatever order. -/
def Obligations.ReachableStatesSatisfyTheInvariants : Prop :=
  ∀ (s t : State) (k : Nat), s.cfg.Legal → (∀ w ∈ s.cmdCh, w < 2 ^ (s.cfg.lenw + 3)) →
    runs k (resetStep s) = .next t →
    EmptyOutsideFrame t ∧ PackerBounded t ∧ DecoderBounded t ∧ NoPendingOverflow t ∧ PrefixBounded t ∧
    CountBounded t ∧ PackerInStep t ∧ DecoderInStep t ∧ HeaderFlagOk t ∧ QueueBounded t

/-! ### The units -/

/-- R54: `Word` and `Bytes` are big-endian and inverse to each other. -/
def Obligations.WordsAndBytesAreBigEndian : Prop :=
  (∀ b0 b1 b2 b3 : Byte,
    (wordOf b0 b1 b2 b3).toNat =
      b0.toNat * 2 ^ 24 + b1.toNat * 2 ^ 16 + b2.toNat * 2 ^ 8 + b3.toNat ∧
    bytesOf (wordOf b0 b1 b2 b3) = [b0, b1, b2, b3]) ∧
  (∀ w : Word,
    (bytesOf w).map BitVec.toNat =
      [w.toNat / 2 ^ 24 % 256, w.toNat / 2 ^ 16 % 256, w.toNat / 2 ^ 8 % 256, w.toNat % 256] ∧
    ∀ b0 b1 b2 b3 : Byte, bytesOf w = [b0, b1, b2, b3] → wordOf b0 b1 b2 b3 = w)

/-- R160: the three forms of the padding count, its range, and what it completes. -/
def Obligations.PaddingCountCompletesTheGroup : Prop :=
  ∀ n : Nat,
    padLen n = (if 4 - (n + 1) % 4 = 4 then 0 else 4 - (n + 1) % 4) ∧
    padLen n = 3 - n % 4 ∧ padLen n ≤ 3 ∧ (1 + padLen n + n) % 4 = 0 ∧
    BitVec.ofNat 2 (padLen n) = ~~~(BitVec.ofNat 2 n)

/-- R102: the five digits are the base-85 expansion of the word, the only one, with first digit at most 82;
they come from the low end too, and every digit list of value below `2^32` is some word's. R85: the digit group
holds them in 7 bits each, the first in bits 34 to 28. -/
def Obligations.DigitsAreTheBase85Expansion : Prop :=
  (∀ w : Word, ∃ d0 d1 d2 d3 d4 : Nat, (digits w).map BitVec.toNat = [d0, d1, d2, d3, d4] ∧
    d0 ≤ 82 ∧ d1 ≤ 84 ∧ d2 ≤ 84 ∧ d3 ≤ 84 ∧ d4 ≤ 84 ∧
    w.toNat = d0 * 85 ^ 4 + d1 * 85 ^ 3 + d2 * 85 ^ 2 + d3 * 85 + d4 ∧
    d4 = w.toNat % 85 ∧ d3 = w.toNat / 85 % 85 ∧ d2 = w.toNat / 85 / 85 % 85 ∧
    d1 = w.toNat / 85 / 85 / 85 % 85 ∧ d0 = w.toNat / 85 / 85 / 85 / 85 ∧
    (digitGroup w).toNat = d0 * 2 ^ 28 + d1 * 2 ^ 21 + d2 * 2 ^ 14 + d3 * 2 ^ 7 + d4) ∧
  (∀ (w : Word) (e0 e1 e2 e3 e4 : Nat), e0 ≤ 84 → e1 ≤ 84 → e2 ≤ 84 → e3 ≤ 84 → e4 ≤ 84 →
    w.toNat = e0 * 85 ^ 4 + e1 * 85 ^ 3 + e2 * 85 ^ 2 + e3 * 85 + e4 →
      (digits w).map BitVec.toNat = [e0, e1, e2, e3, e4]) ∧
  (∀ e0 e1 e2 e3 e4 : Nat, e0 ≤ 84 → e1 ≤ 84 → e2 ≤ 84 → e3 ≤ 84 → e4 ≤ 84 →
    ((∃ w : Word, (digits w).map BitVec.toNat = [e0, e1, e2, e3, e4]) ↔
      e0 * 85 ^ 4 + e1 * 85 ^ 3 + e2 * 85 ^ 2 + e3 * 85 + e4 ≤ 2 ^ 32 - 1))

/-- R52, R53, R82: with a legal alphabet the table reads invert each other, and everything that is no symbol of
the alphabet reads as an unused slot. -/
def Obligations.TableReadsInvertEachOther : Prop :=
  ∀ c : Config, c.Legal →
    (∀ d : Digit, d.toNat < 85 →
      decLookup c.alphabet (symItem (encRom c.alphabet d)) = { valid := true, digit := d }) ∧
    (∀ x : Byte, (decLookup c.alphabet x).valid = true →
      (decLookup c.alphabet x).digit.toNat < 85 ∧
      x = symItem (encRom c.alphabet (decLookup c.alphabet x).digit)) ∧
    (∀ x : Byte, (decLookup c.alphabet x).valid = false → (decLookup c.alphabet x).digit = 0#7) ∧
    (∀ x : Byte, x.toNat < 32 ∨ 126 < x.toNat → (decLookup c.alphabet x).valid = false)

/-- R106, R75, R114 (c): the encoder is injective, and its items are five symbols of the alphabet with bit 7
clear. -/
def Obligations.EncoderIsInjectiveIntoTheAlphabet : Prop :=
  ∀ c : Config, c.Legal →
    (∀ w v : Word, encGrp c.alphabet w = encGrp c.alphabet v → w = v) ∧
    (∀ w : Word, (encItems c.alphabet w).length = 5 ∧
      ∀ y ∈ encItems c.alphabet w, y.msb = false ∧ ∃ a ∈ c.alphabet, y = symItem a) ∧
    (∀ w : Word, encGrpBits c.alphabet w =
      (encGrp c.alphabet w).foldl (fun (acc : BitVec 35) (a : Sym) => acc * 128#35 + a.zeroExtend 35) 0#35)

/-- R162: four bytes from the empty packer append exactly the group of their word and leave the packer empty. -/
def Obligations.FourBytesPackOneGroup : Prop :=
  ∀ (s : State) (b0 b1 b2 b3 : Byte), s.packAcc = 0#32 → s.packN = 0#2 →
    packByte b3 (packByte b2 (packByte b1 (packByte b0 s))) =
      { s with oq := s.oq ++ encItems s.cfg.alphabet (wordOf b0 b1 b2 b3) }

/-- R140: the triple of `DecGrp`, and five symbols from the empty decoder calling `GroupOut` with exactly that
triple and leaving the decoder empty. -/
def Obligations.FiveSymbolsDecodeOneGroup : Prop :=
  ∀ (s : State) (x0 x1 x2 x3 x4 : Byte),
    let e := fun x => decLookup s.cfg.alphabet x
    let v := (e x0).digit.toNat * 85 ^ 4 + (e x1).digit.toNat * 85 ^ 3 + (e x2).digit.toNat * 85 ^ 2 +
      (e x3).digit.toNat * 85 + (e x4).digit.toNat
    let bad := !((e x0).valid && (e x1).valid && (e x2).valid && (e x3).valid && (e x4).valid)
    decGrp s.cfg.alphabet x0 x1 x2 x3 x4 =
      { w := BitVec.ofNat 32 (v % 2 ^ 32), bad := bad, ovf := decide (2 ^ 32 ≤ v) } ∧
    (s.decAcc = 0#32 → s.decN = 0#3 → s.decBad = false → s.decOvf = false →
      let t := decSym x4 (decSym x3 (decSym x2 (decSym x1 (decSym x0 s))))
      t = groupOut (BitVec.ofNat 32 v) bad (decide (2 ^ 32 ≤ v)) s ∧
      t.decAcc = 0#32 ∧ t.decN = 0#3 ∧ t.decBad = false ∧ t.decOvf = false)

/-- R143: every encoder output is canonical and decodes to its word, every canonical group is the encoder's
output for its word, and an overflowing group is not, so that decoding is injective on canonical groups
only. -/
def Obligations.CanonicalGroupsAreEncoderOutputs : Prop :=
  ∀ c : Config, c.Legal →
    (∀ (w : Word) (x0 x1 x2 x3 x4 : Byte), encItems c.alphabet w = [x0, x1, x2, x3, x4] →
      decGrp c.alphabet x0 x1 x2 x3 x4 = { w := w, bad := false, ovf := false }) ∧
    (∀ x0 x1 x2 x3 x4 : Byte,
      (decGrp c.alphabet x0 x1 x2 x3 x4).bad = false → (decGrp c.alphabet x0 x1 x2 x3 x4).ovf = false →
      encItems c.alphabet (decGrp c.alphabet x0 x1 x2 x3 x4).w = [x0, x1, x2, x3, x4]) ∧
    (∀ x0 x1 x2 x3 x4 : Byte,
      (decGrp c.alphabet x0 x1 x2 x3 x4).bad = false → (decGrp c.alphabet x0 x1 x2 x3 x4).ovf = true →
      encItems c.alphabet (decGrp c.alphabet x0 x1 x2 x3 x4).w ≠ [x0, x1, x2, x3, x4])

/-- R142: a group of valid symbols overflows exactly when its first digit is 83 or 84, or is 82 with the rest
above 23, 54, 12, 0; its word is the low 32 bits of its value. -/
def Obligations.OverflowDependsOnTheLeadingDigits : Prop :=
  ∀ (c : Config) (x0 x1 x2 x3 x4 : Byte) (e0 e1 e2 e3 e4 : Nat), c.Legal →
    e0 = (decLookup c.alphabet x0).digit.toNat → e1 = (decLookup c.alphabet x1).digit.toNat →
    e2 = (decLookup c.alphabet x2).digit.toNat → e3 = (decLookup c.alphabet x3).digit.toNat →
    e4 = (decLookup c.alphabet x4).digit.toNat →
    ((decGrp c.alphabet x0 x1 x2 x3 x4).ovf = true ↔
      83 ≤ e0 ∨ (e0 = 82 ∧
        (24 ≤ e1 ∨ (e1 = 23 ∧ (55 ≤ e2 ∨ (e2 = 54 ∧ (13 ≤ e3 ∨ (e3 = 12 ∧ 1 ≤ e4)))))))) ∧
    (decGrp c.alphabet x0 x1 x2 x3 x4).w.toNat =
      (e0 * 85 ^ 4 + e1 * 85 ^ 3 + e2 * 85 ^ 2 + e3 * 85 + e4) % 2 ^ 32

/-! ### Frames -/

/-- R148: the unpadded round trip on non-empty frames of whole groups, its exception for the empty frame, and
its converse on canonical frames. -/
def Obligations.UnpaddedRoundTrip : Prop :=
  ∀ c : Config, c.Legal →
    (∀ b : List Byte, b.length % 4 = 0 → b ≠ [] →
      ∃ x, z85Encode c.alphabet b = .ok x false ∧ z85Decode c.alphabet x = .ok b false) ∧
    z85Encode c.alphabet [] = .ok [] false ∧ z85Decode c.alphabet [] = .soft .emptyInput ∧
    (∀ (x b : List Byte) (o : Bool), z85Decode c.alphabet x = .ok b o →
      (z85Encode c.alphabet b = .ok x false ↔ o = false))

/-- R176: the padded round trip on frames of every length, and what its converse needs. -/
def Obligations.PaddedRoundTrip : Prop :=
  ∀ c : Config, c.Legal →
    (∀ b : List Byte,
      ∃ x, pz85Encode c.alphabet b = .ok x false ∧ pz85Decode c.alphabet x = .ok b false) ∧
    (∀ (x b : List Byte) (o : Bool), pz85Decode c.alphabet x = .ok b o →
      pz85Encode c.alphabet b = .ok x false →
      o = false ∧ z85Decode c.alphabet x = .ok (inner b) false)

/-- R113, R168: the output lengths of the encode frames. -/
def Obligations.EncodeLengthLaws : Prop :=
  ∀ (c : Config) (b : List Byte),
    (b.length % 4 = 0 → ∃ x, z85Encode c.alphabet b = .ok x false ∧ x.length = b.length * 5 / 4) ∧
    (b.length % 4 ≠ 0 → z85Encode c.alphabet b = .soft .invalidLength) ∧
    (∃ x, pz85Encode c.alphabet b = .ok x false ∧
      x.length = (1 + padLen b.length + b.length) * 5 / 4 ∧ x.length = 5 * (b.length / 4 + 1))

/-- R147, R175: the number of items that a decode frame delivers, by its status; `k` is the index of the first
group with an invalid symbol and `p` the first byte of the inner buffer. -/
def Obligations.DecodeLengthLaws : Prop :=
  ∀ (c : Config) (x : List Byte) (n : Nat),
    let k := (decodeGroups c.alphabet x).findIdx (fun g => g.bad)
    let p := ((groupBytes (decodeGroups c.alphabet x)).getD 0 0#8).toNat
    (frameStatus c.alphabet (.z85d n) x = .ok →
      (frameItems c.alphabet (.z85d n) x).length = x.length * 4 / 5) ∧
    (frameStatus c.alphabet (.z85d n) x = .badSymbol →
      (frameItems c.alphabet (.z85d n) x).length = 4 * k) ∧
    (frameStatus c.alphabet (.pz85d n) x = .ok →
      p ≤ 3 ∧ (frameItems c.alphabet (.pz85d n) x).length + 1 + p = x.length * 4 / 5) ∧
    (frameStatus c.alphabet (.pz85d n) x = .badSymbol → k = 0 ∨ 4 ≤ p →
      frameItems c.alphabet (.pz85d n) x = []) ∧
    (frameStatus c.alphabet (.pz85d n) x = .badSymbol → 0 < k → p ≤ 3 →
      (frameItems c.alphabet (.pz85d n) x).length + 1 + p = 4 * k) ∧
    (∀ i : Instr, (∃ m, i = .z85d m ∨ i = .pz85d m) →
      frameStatus c.alphabet i x ≠ .ok → frameStatus c.alphabet i x ≠ .badSymbol →
      frameItems c.alphabet i x = [])

/-- R114 (a): frames of whole groups encode piecewise. -/
def Obligations.EncodingIsPiecewise : Prop :=
  ∀ (c : Config) (a b : List Byte), a.length % 4 = 0 → b.length % 4 = 0 →
    ∃ x y, z85Encode c.alphabet a = .ok x false ∧ z85Encode c.alphabet b = .ok y false ∧
      z85Encode c.alphabet (a ++ b) = .ok (x ++ y) false

/-- R136, R150, R234: a decode frame of good length with an item outside the alphabet anywhere, a white space
character among them, is BAD_SYMBOL, padded or not. -/
def Obligations.ItemOutsideTheAlphabetIsBadSymbol : Prop :=
  ∀ (c : Config) (x : List Byte) (y : Byte), c.Legal → x.length % 5 = 0 → y ∈ x →
    ((∀ a ∈ c.alphabet, y ≠ symItem a) ∨ y ∈ [9#8, 10#8, 11#8, 12#8, 13#8, 32#8]) →
    z85Decode c.alphabet x = .soft .badSymbol ∧ pz85Decode c.alphabet x = .soft .badSymbol

/-- R173, R235, R238: a padded decode is fatal exactly when its length is good, no symbol of the whole frame is
invalid and the first decoded byte is 4 or more. -/
def Obligations.FatalNeedsAGoodFrameWithABadHeader : Prop :=
  ∀ (c : Config) (x : List Byte), c.Legal →
    (pz85Decode c.alphabet x = .fatal ↔
      x.length ≠ 0 ∧ x.length % 5 = 0 ∧ (∀ y ∈ x, ∃ a ∈ c.alphabet, y = symItem a) ∧
      ∃ g gs, decodeGroups c.alphabet x = g :: gs ∧ 4 ≤ g.w.toNat / 2 ^ 24)

/-- R172: a padded decode drops the bytes after the header unseen, whatever they are. -/
def Obligations.PaddingBytesAreNotChecked : Prop :=
  ∀ (c : Config) (h : Byte) (pad payload x : List Byte), c.Legal → h.toNat ≤ 3 → pad.length = h.toNat →
    z85Encode c.alphabet ([h] ++ pad ++ payload) = .ok x false →
    pz85Decode c.alphabet x = .ok payload false

/-- R215, R213 under the eager order of log entry 6: from IDLE each of the eight commands, with exactly the
items its frame needs, runs its frame in one CMD, `prefixCount` PREFIX, `Need` IN, one OUT per item and one
DONE step, delivers the frame-level result and then its status, and leaves later commands and items alone. -/
def Obligations.EagerRunDeliversTheFrameResult : Prop :=
  ∀ (i : Instr) (s : State) (f rest : List Byte) (ws : List Nat),
    s.cfg.Legal → i.wellFormed s.cfg.lenw = true → s.st = .idle → s.oq = [] → s.sched = [] →
    s.cmdCh = encode i :: ws → s.inCh = f ++ rest → f.length = need i.op i.len →
    ∃ t, runs (2 + prefixCount i.op i.len + need i.op i.len +
        (frameItems s.cfg.alphabet i f).length) s = .next t ∧
      t.sink = s.sink ++ frameDeliveries s.cfg.alphabet i f ∧
      t.cmdCh = ws ∧ t.inCh = rest ∧ t.oq = [] ∧ t.cfg = s.cfg ∧
      t.st = (if frameStatus s.cfg.alphabet i f = .outOfRange then .halt else .idle)

/-- R214, R215: under every schedule without RESET, whatever has been delivered of a frame is a beginning of
the same sequence of items and status, and a frame that is over has delivered all of it. -/
def Obligations.EveryScheduleDeliversTheSameFrame : Prop :=
  ∀ (i : Instr) (s t : State) (k : Nat),
    s.cfg.Legal → i.wellFormed s.cfg.lenw = true → s.st = .idle → s.oq = [] → NoReset s →
    s.cmdCh = [encode i] → s.inCh.length = need i.op i.len → runs k s = .next t →
    ∃ later, s.sink ++ frameDeliveries s.cfg.alphabet i s.inCh = t.sink ++ later ∧
      (t.cmdCh = [] → t.st ≠ .busy →
        later = [] ∧ t.inCh = [] ∧ t.oq = [] ∧
        (t.st = .halt ↔ frameStatus s.cfg.alphabet i s.inCh = .outOfRange))

/-- R110, R144: under every schedule `ENCG` shows the sink what `Z85E` with length 4 shows it, and `DECG` what
`Z85D` with length 5 shows it, whatever their ignored length operand. -/
def Obligations.GroupCommandsEqualOneGroupFrames : Prop :=
  ∀ (s t : State) (n k : Nat) (g z : Instr), s.cfg.Legal →
    ((g = .encg n ∧ z = .z85e 4) ∨ (g = .decg n ∧ z = .z85d 5)) → g.wellFormed s.cfg.lenw = true →
    s.cmdCh = [encode g] → runs k s = .next t →
    ∃ u, runs k { s with cmdCh := [encode z] } = .next u ∧
      u.sink = t.sink ∧ u.st = t.st ∧ u.inCh = t.inCh ∧ u.oq = t.oq
end

