-- ==== Sys2Proof/Laws/State.lean ====
section
/-! SUPPORT. One lemma per field and named update of State, each true by rfl, so that no later proof unfolds
a record update. -/
namespace Sys2Proof.Machine

variable (s : State)

/-! ### passTurn -/

@[simp] theorem passTurn_cfg : (passTurn s).cfg = s.cfg := rfl
@[simp] theorem passTurn_st : (passTurn s).st = s.st := rfl
@[simp] theorem passTurn_opR : (passTurn s).opR = s.opR := rfl
@[simp] theorem passTurn_lenR : (passTurn s).lenR = s.lenR := rfl
@[simp] theorem passTurn_inCnt : (passTurn s).inCnt = s.inCnt := rfl
@[simp] theorem passTurn_badR : (passTurn s).badR = s.badR := rfl
@[simp] theorem passTurn_ovfR : (passTurn s).ovfR = s.ovfR := rfl
@[simp] theorem passTurn_oq : (passTurn s).oq = s.oq := rfl
@[simp] theorem passTurn_preN : (passTurn s).preN = s.preN := rfl
@[simp] theorem passTurn_packAcc : (passTurn s).packAcc = s.packAcc := rfl
@[simp] theorem passTurn_packN : (passTurn s).packN = s.packN := rfl
@[simp] theorem passTurn_firstGrp : (passTurn s).firstGrp = s.firstGrp := rfl
@[simp] theorem passTurn_oor : (passTurn s).oor = s.oor := rfl
@[simp] theorem passTurn_decAcc : (passTurn s).decAcc = s.decAcc := rfl
@[simp] theorem passTurn_decN : (passTurn s).decN = s.decN := rfl
@[simp] theorem passTurn_decBad : (passTurn s).decBad = s.decBad := rfl
@[simp] theorem passTurn_decOvf : (passTurn s).decOvf = s.decOvf := rfl
@[simp] theorem passTurn_cmdCh : (passTurn s).cmdCh = s.cmdCh := rfl
@[simp] theorem passTurn_inCh : (passTurn s).inCh = s.inCh := rfl
@[simp] theorem passTurn_sink : (passTurn s).sink = s.sink := rfl
@[simp] theorem passTurn_sched : (passTurn s).sched = s.sched.tail := rfl

/-! ### takeCommand -/

@[simp] theorem takeCommand_cfg : (takeCommand s).cfg = s.cfg := rfl
@[simp] theorem takeCommand_st : (takeCommand s).st = s.st := rfl
@[simp] theorem takeCommand_opR : (takeCommand s).opR = s.opR := rfl
@[simp] theorem takeCommand_lenR : (takeCommand s).lenR = s.lenR := rfl
@[simp] theorem takeCommand_inCnt : (takeCommand s).inCnt = s.inCnt := rfl
@[simp] theorem takeCommand_badR : (takeCommand s).badR = s.badR := rfl
@[simp] theorem takeCommand_ovfR : (takeCommand s).ovfR = s.ovfR := rfl
@[simp] theorem takeCommand_oq : (takeCommand s).oq = s.oq := rfl
@[simp] theorem takeCommand_preN : (takeCommand s).preN = s.preN := rfl
@[simp] theorem takeCommand_packAcc : (takeCommand s).packAcc = s.packAcc := rfl
@[simp] theorem takeCommand_packN : (takeCommand s).packN = s.packN := rfl
@[simp] theorem takeCommand_firstGrp : (takeCommand s).firstGrp = s.firstGrp := rfl
@[simp] theorem takeCommand_oor : (takeCommand s).oor = s.oor := rfl
@[simp] theorem takeCommand_decAcc : (takeCommand s).decAcc = s.decAcc := rfl
@[simp] theorem takeCommand_decN : (takeCommand s).decN = s.decN := rfl
@[simp] theorem takeCommand_decBad : (takeCommand s).decBad = s.decBad := rfl
@[simp] theorem takeCommand_decOvf : (takeCommand s).decOvf = s.decOvf := rfl
@[simp] theorem takeCommand_cmdCh : (takeCommand s).cmdCh = s.cmdCh.tail := rfl
@[simp] theorem takeCommand_inCh : (takeCommand s).inCh = s.inCh := rfl
@[simp] theorem takeCommand_sink : (takeCommand s).sink = s.sink := rfl
@[simp] theorem takeCommand_sched : (takeCommand s).sched = s.sched := rfl

/-! ### enqueue -/

@[simp] theorem enqueue_cfg (items : List Byte) : (enqueue items s).cfg = s.cfg := rfl
@[simp] theorem enqueue_st (items : List Byte) : (enqueue items s).st = s.st := rfl
@[simp] theorem enqueue_opR (items : List Byte) : (enqueue items s).opR = s.opR := rfl
@[simp] theorem enqueue_lenR (items : List Byte) : (enqueue items s).lenR = s.lenR := rfl
@[simp] theorem enqueue_inCnt (items : List Byte) : (enqueue items s).inCnt = s.inCnt := rfl
@[simp] theorem enqueue_badR (items : List Byte) : (enqueue items s).badR = s.badR := rfl
@[simp] theorem enqueue_ovfR (items : List Byte) : (enqueue items s).ovfR = s.ovfR := rfl
@[simp] theorem enqueue_oq (items : List Byte) : (enqueue items s).oq = s.oq ++ items := rfl
@[simp] theorem enqueue_preN (items : List Byte) : (enqueue items s).preN = s.preN := rfl
@[simp] theorem enqueue_packAcc (items : List Byte) : (enqueue items s).packAcc = s.packAcc := rfl
@[simp] theorem enqueue_packN (items : List Byte) : (enqueue items s).packN = s.packN := rfl
@[simp] theorem enqueue_firstGrp (items : List Byte) : (enqueue items s).firstGrp = s.firstGrp := rfl
@[simp] theorem enqueue_oor (items : List Byte) : (enqueue items s).oor = s.oor := rfl
@[simp] theorem enqueue_decAcc (items : List Byte) : (enqueue items s).decAcc = s.decAcc := rfl
@[simp] theorem enqueue_decN (items : List Byte) : (enqueue items s).decN = s.decN := rfl
@[simp] theorem enqueue_decBad (items : List Byte) : (enqueue items s).decBad = s.decBad := rfl
@[simp] theorem enqueue_decOvf (items : List Byte) : (enqueue items s).decOvf = s.decOvf := rfl
@[simp] theorem enqueue_cmdCh (items : List Byte) : (enqueue items s).cmdCh = s.cmdCh := rfl
@[simp] theorem enqueue_inCh (items : List Byte) : (enqueue items s).inCh = s.inCh := rfl
@[simp] theorem enqueue_sink (items : List Byte) : (enqueue items s).sink = s.sink := rfl
@[simp] theorem enqueue_sched (items : List Byte) : (enqueue items s).sched = s.sched := rfl

/-! ### deliver -/

@[simp] theorem deliver_cfg (d : Delivery) : (deliver d s).cfg = s.cfg := rfl
@[simp] theorem deliver_st (d : Delivery) : (deliver d s).st = s.st := rfl
@[simp] theorem deliver_opR (d : Delivery) : (deliver d s).opR = s.opR := rfl
@[simp] theorem deliver_lenR (d : Delivery) : (deliver d s).lenR = s.lenR := rfl
@[simp] theorem deliver_inCnt (d : Delivery) : (deliver d s).inCnt = s.inCnt := rfl
@[simp] theorem deliver_badR (d : Delivery) : (deliver d s).badR = s.badR := rfl
@[simp] theorem deliver_ovfR (d : Delivery) : (deliver d s).ovfR = s.ovfR := rfl
@[simp] theorem deliver_oq (d : Delivery) : (deliver d s).oq = s.oq := rfl
@[simp] theorem deliver_preN (d : Delivery) : (deliver d s).preN = s.preN := rfl
@[simp] theorem deliver_packAcc (d : Delivery) : (deliver d s).packAcc = s.packAcc := rfl
@[simp] theorem deliver_packN (d : Delivery) : (deliver d s).packN = s.packN := rfl
@[simp] theorem deliver_firstGrp (d : Delivery) : (deliver d s).firstGrp = s.firstGrp := rfl
@[simp] theorem deliver_oor (d : Delivery) : (deliver d s).oor = s.oor := rfl
@[simp] theorem deliver_decAcc (d : Delivery) : (deliver d s).decAcc = s.decAcc := rfl
@[simp] theorem deliver_decN (d : Delivery) : (deliver d s).decN = s.decN := rfl
@[simp] theorem deliver_decBad (d : Delivery) : (deliver d s).decBad = s.decBad := rfl
@[simp] theorem deliver_decOvf (d : Delivery) : (deliver d s).decOvf = s.decOvf := rfl
@[simp] theorem deliver_cmdCh (d : Delivery) : (deliver d s).cmdCh = s.cmdCh := rfl
@[simp] theorem deliver_inCh (d : Delivery) : (deliver d s).inCh = s.inCh := rfl
@[simp] theorem deliver_sink (d : Delivery) : (deliver d s).sink = s.sink ++ [d] := rfl
@[simp] theorem deliver_sched (d : Delivery) : (deliver d s).sched = s.sched := rfl

/-! ### enterHalt -/

@[simp] theorem enterHalt_cfg : (enterHalt s).cfg = s.cfg := rfl
@[simp] theorem enterHalt_st : (enterHalt s).st = .halt := rfl
@[simp] theorem enterHalt_opR : (enterHalt s).opR = s.opR := rfl
@[simp] theorem enterHalt_lenR : (enterHalt s).lenR = s.lenR := rfl
@[simp] theorem enterHalt_inCnt : (enterHalt s).inCnt = s.inCnt := rfl
@[simp] theorem enterHalt_badR : (enterHalt s).badR = s.badR := rfl
@[simp] theorem enterHalt_ovfR : (enterHalt s).ovfR = s.ovfR := rfl
@[simp] theorem enterHalt_oq : (enterHalt s).oq = s.oq := rfl
@[simp] theorem enterHalt_preN : (enterHalt s).preN = s.preN := rfl
@[simp] theorem enterHalt_packAcc : (enterHalt s).packAcc = s.packAcc := rfl
@[simp] theorem enterHalt_packN : (enterHalt s).packN = s.packN := rfl
@[simp] theorem enterHalt_firstGrp : (enterHalt s).firstGrp = s.firstGrp := rfl
@[simp] theorem enterHalt_oor : (enterHalt s).oor = s.oor := rfl
@[simp] theorem enterHalt_decAcc : (enterHalt s).decAcc = s.decAcc := rfl
@[simp] theorem enterHalt_decN : (enterHalt s).decN = s.decN := rfl
@[simp] theorem enterHalt_decBad : (enterHalt s).decBad = s.decBad := rfl
@[simp] theorem enterHalt_decOvf : (enterHalt s).decOvf = s.decOvf := rfl
@[simp] theorem enterHalt_cmdCh : (enterHalt s).cmdCh = s.cmdCh := rfl
@[simp] theorem enterHalt_inCh : (enterHalt s).inCh = s.inCh := rfl
@[simp] theorem enterHalt_sink : (enterHalt s).sink = s.sink := rfl
@[simp] theorem enterHalt_sched : (enterHalt s).sched = s.sched := rfl

/-! ### cmdStep -/

@[simp] theorem cmdStep_cfg (op : Opcode) (len : Nat) : (cmdStep op len s).cfg = s.cfg := rfl
@[simp] theorem cmdStep_st (op : Opcode) (len : Nat) : (cmdStep op len s).st = .busy := rfl
@[simp] theorem cmdStep_opR (op : Opcode) (len : Nat) : (cmdStep op len s).opR = op := rfl
@[simp] theorem cmdStep_lenR (op : Opcode) (len : Nat) : (cmdStep op len s).lenR = len := rfl
@[simp] theorem cmdStep_inCnt (op : Opcode) (len : Nat) : (cmdStep op len s).inCnt = 0 := rfl
@[simp] theorem cmdStep_badR (op : Opcode) (len : Nat) : (cmdStep op len s).badR = false := rfl
@[simp] theorem cmdStep_ovfR (op : Opcode) (len : Nat) : (cmdStep op len s).ovfR = false := rfl
@[simp] theorem cmdStep_oq (op : Opcode) (len : Nat) : (cmdStep op len s).oq = s.oq := rfl
@[simp] theorem cmdStep_preN (op : Opcode) (len : Nat) : (cmdStep op len s).preN = BitVec.ofNat 3 (prefixCount op len) := rfl
@[simp] theorem cmdStep_packAcc (op : Opcode) (len : Nat) : (cmdStep op len s).packAcc = 0#32 := rfl
@[simp] theorem cmdStep_packN (op : Opcode) (len : Nat) : (cmdStep op len s).packN = 0#2 := rfl
@[simp] theorem cmdStep_firstGrp (op : Opcode) (len : Nat) : (cmdStep op len s).firstGrp = true := rfl
@[simp] theorem cmdStep_oor (op : Opcode) (len : Nat) : (cmdStep op len s).oor = false := rfl
@[simp] theorem cmdStep_decAcc (op : Opcode) (len : Nat) : (cmdStep op len s).decAcc = 0#32 := rfl
@[simp] theorem cmdStep_decN (op : Opcode) (len : Nat) : (cmdStep op len s).decN = 0#3 := rfl
@[simp] theorem cmdStep_decBad (op : Opcode) (len : Nat) : (cmdStep op len s).decBad = false := rfl
@[simp] theorem cmdStep_decOvf (op : Opcode) (len : Nat) : (cmdStep op len s).decOvf = false := rfl
@[simp] theorem cmdStep_cmdCh (op : Opcode) (len : Nat) : (cmdStep op len s).cmdCh = s.cmdCh := rfl
@[simp] theorem cmdStep_inCh (op : Opcode) (len : Nat) : (cmdStep op len s).inCh = s.inCh := rfl
@[simp] theorem cmdStep_sink (op : Opcode) (len : Nat) : (cmdStep op len s).sink = s.sink := rfl
@[simp] theorem cmdStep_sched (op : Opcode) (len : Nat) : (cmdStep op len s).sched = s.sched := rfl

/-! ### resetStep -/

@[simp] theorem resetStep_cfg : (resetStep s).cfg = s.cfg := rfl
@[simp] theorem resetStep_st : (resetStep s).st = .idle := rfl
@[simp] theorem resetStep_opR : (resetStep s).opR = 0#3 := rfl
@[simp] theorem resetStep_lenR : (resetStep s).lenR = 0 := rfl
@[simp] theorem resetStep_inCnt : (resetStep s).inCnt = 0 := rfl
@[simp] theorem resetStep_badR : (resetStep s).badR = false := rfl
@[simp] theorem resetStep_ovfR : (resetStep s).ovfR = false := rfl
@[simp] theorem resetStep_oq : (resetStep s).oq = [] := rfl
@[simp] theorem resetStep_preN : (resetStep s).preN = 0#3 := rfl
@[simp] theorem resetStep_packAcc : (resetStep s).packAcc = 0#32 := rfl
@[simp] theorem resetStep_packN : (resetStep s).packN = 0#2 := rfl
@[simp] theorem resetStep_firstGrp : (resetStep s).firstGrp = false := rfl
@[simp] theorem resetStep_oor : (resetStep s).oor = false := rfl
@[simp] theorem resetStep_decAcc : (resetStep s).decAcc = 0#32 := rfl
@[simp] theorem resetStep_decN : (resetStep s).decN = 0#3 := rfl
@[simp] theorem resetStep_decBad : (resetStep s).decBad = false := rfl
@[simp] theorem resetStep_decOvf : (resetStep s).decOvf = false := rfl
@[simp] theorem resetStep_cmdCh : (resetStep s).cmdCh = s.cmdCh := rfl
@[simp] theorem resetStep_inCh : (resetStep s).inCh = s.inCh := rfl
@[simp] theorem resetStep_sink : (resetStep s).sink = s.sink := rfl
@[simp] theorem resetStep_sched : (resetStep s).sched = s.sched := rfl

end Sys2Proof.Machine
end

