-- ==== Sys2Proof/Laws/Enabled.lean ====
section
/-! SUPPORT. When each kind of step is enabled, in words a proof can use (43_core_control.md R191, R197, R199,
R207, R209), and the choice of the next step. -/
namespace Sys2Proof.Machine

variable (s : State)

@[simp] theorem hasRoom_iff : hasRoom s = true ↔ s.oq.length + 5 ≤ s.cfg.oqDepth := by
  simp [hasRoom]

@[simp] theorem canCmd_iff : canCmd s = true ↔ s.st = .idle := by
  simp [canCmd]

@[simp] theorem canPrefix_iff :
    canPrefix s = true ↔ s.st = .busy ∧ s.preN ≠ 0#3 ∧ s.oq.length + 5 ≤ s.cfg.oqDepth := by
  simp [canPrefix, and_assoc]

@[simp] theorem canIn_iff :
    canIn s = true ↔
      s.st = .busy ∧ s.preN = 0#3 ∧ s.inCnt < need s.opR s.lenR ∧ s.oq.length + 5 ≤ s.cfg.oqDepth := by
  simp [canIn, and_assoc]

@[simp] theorem canOut_iff : canOut s = true ↔ s.oq ≠ [] := by
  simp [canOut]

@[simp] theorem canDone_iff :
    canDone s = true ↔ s.st = .busy ∧ s.preN = 0#3 ∧ s.inCnt = need s.opR s.lenR ∧ s.oq = [] := by
  simp [canDone, and_assoc]

/-- A schedule that names a kind of step decides. -/
theorem turn_of_sched {t : Turn} {ts : List Turn} (h : s.sched = t :: ts) : turn s = t := by
  simp [turn, h]

/-- An empty schedule leaves the choice to the eager order. -/
theorem turn_of_nil (h : s.sched = []) : turn s = eagerTurn s := by
  simp [turn, h]

/-- The eager order never chooses RESET. -/
theorem eagerTurn_ne_reset : eagerTurn s ≠ .reset := by
  unfold eagerTurn
  repeat' split
  all_goals simp

end Sys2Proof.Machine
end

