-- ==== Sys2Proof/Laws/Ops.lean ====
section
/-! SUPPORT. For each shared operation, what it does in each of its cases; later proofs cite these instead of
unfolding the operation. -/
namespace Sys2Proof.Machine

variable (s : State)

/-- The two readings of `PackByte` (R162). -/
theorem packByte_cases (b : Byte) :
    (s.packN ≠ 3#2 ∧ packByte b s =
      { s with packAcc := s.packAcc * 256#32 + b.zeroExtend 32, packN := s.packN + 1#2 }) ∨
    (s.packN = 3#2 ∧ packByte b s =
      { s with packAcc := 0#32, packN := 0#2,
               oq := s.oq ++ encItems s.cfg.alphabet (s.packAcc * 256#32 + b.zeroExtend 32) }) := by
  by_cases h : s.packN = 3#2
  · exact .inr ⟨h, by simp [packByte, h, enqueue]⟩
  · exact .inl ⟨h, by simp [packByte, h]⟩

/-- `GroupOut` when the group has no header: no strip, the flags collected, the bytes unless suppressed
(R205, R206). -/
theorem groupOut_no_header (w : Word) (b o : Bool) (h : carriesHeader s.opR s.firstGrp b = false) :
    groupOut w b o s =
      { s with badR := s.badR || b, ovfR := s.ovfR || o, firstGrp := false,
               oq := s.oq ++ (if !(s.badR || b) && !s.oor then bytesOf w else []) } := by
  simp [groupOut, h, enqueue]

/-- `GroupOut` on a header of 0 to 3 (R171). -/
theorem groupOut_strip (w : Word) (b o : Bool) (h : carriesHeader s.opR s.firstGrp b = true)
    (hp : headerOutOfRange (headerOf w) = false) :
    groupOut w b o s =
      { s with badR := s.badR || b, ovfR := s.ovfR || o, firstGrp := false,
               oq := s.oq ++ (if !(s.badR || b) && !s.oor
                 then (bytesOf w).drop (1 + (headerOf w).toNat) else []) } := by
  simp [groupOut, h, hp, enqueue]

/-- `GroupOut` on a header of 4 or more (R170): nothing is appended. -/
theorem groupOut_out_of_range (w : Word) (b o : Bool) (h : carriesHeader s.opR s.firstGrp b = true)
    (hp : headerOutOfRange (headerOf w) = true) :
    groupOut w b o s =
      { s with badR := s.badR || b, ovfR := s.ovfR || o, oor := true, firstGrp := false } := by
  simp [groupOut, h, hp, enqueue]

/-- `GroupOut` only appends to the queue and writes the four frame flags. -/
theorem groupOut_frame (w : Word) (b o : Bool) :
    ∃ items, items.length ≤ 4 ∧ groupOut w b o s =
      { s with badR := s.badR || b, ovfR := s.ovfR || o,
               oor := s.oor || (carriesHeader s.opR s.firstGrp b && headerOutOfRange (headerOf w)),
               firstGrp := false, oq := s.oq ++ items } := by
  refine ⟨_, ?_, by simp only [groupOut, enqueue]; rfl⟩
  split
  · simp [bytesOf]
  · simp

/-- `DecSym` before the fifth symbol of a group (R135). -/
theorem decSym_collect (x : Byte) (h : s.decN ≠ 4#3) :
    decSym x s =
      { s with
        decAcc := BitVec.ofNat 32 (accumulate s.decAcc.toNat (decLookup s.cfg.alphabet x))
        decN := s.decN + 1#3
        decBad := symBad s.decBad (decLookup s.cfg.alphabet x)
        decOvf := symOvf s.decOvf (accumulate s.decAcc.toNat (decLookup s.cfg.alphabet x)) } := by
  simp [decSym, h]

/-- `DecSym` on the fifth symbol (R135, R138). -/
theorem decSym_complete (x : Byte) (h : s.decN = 4#3) :
    decSym x s =
      groupOut (BitVec.ofNat 32 (accumulate s.decAcc.toNat (decLookup s.cfg.alphabet x)))
        (symBad s.decBad (decLookup s.cfg.alphabet x))
        (symOvf s.decOvf (accumulate s.decAcc.toNat (decLookup s.cfg.alphabet x)))
        { s with decAcc := 0#32, decN := 0#3, decBad := false, decOvf := false } := by
  simp [decSym, h]

/-- The IN step after an early failure (R200). -/
theorem inStep_discard (x : Byte) (h : early s.opR s.lenR ≠ none) :
    inStep x s = { s with inCnt := s.inCnt + 1 } := by
  obtain ⟨e, he⟩ := Option.ne_none_iff_exists'.mp h
  simp [inStep, he]

/-- The IN step of an encode command (R201). -/
theorem inStep_encode (x : Byte) (h : early s.opR s.lenR = none) (hd : s.opR[0] = false) :
    inStep x s = packByte x { s with inCnt := s.inCnt + 1 } := by
  simp [inStep, h, hd]

/-- The IN step of a decode command (R203). -/
theorem inStep_decode (x : Byte) (h : early s.opR s.lenR = none) (hd : s.opR[0] = true) :
    inStep x s = decSym x { s with inCnt := s.inCnt + 1 } := by
  simp [inStep, h, hd]

/-- The OUT step (R207). -/
theorem outStep_cons {y : Byte} {rest : List Byte} (h : s.oq = y :: rest) :
    outStep s = { s with oq := rest, sink := s.sink ++ [.item y] } := by
  simp [outStep, h, deliver]

/-- The DONE step, in its two cases (R210). -/
theorem doneStep_cases :
    ((doneWord s).status = .outOfRange ∧
      doneStep s = { s with sink := s.sink ++ [.status (doneWord s)], st := .halt }) ∨
    ((doneWord s).status ≠ .outOfRange ∧
      doneStep s = { s with sink := s.sink ++ [.status (doneWord s)], st := .idle }) := by
  by_cases h : (doneWord s).status = .outOfRange
  · exact .inl ⟨h, by simp [doneStep, h, enterHalt, deliver]⟩
  · exact .inr ⟨h, by simp [doneStep, h, deliver]⟩

/-- The IN beat of the item on the port (R199). -/
theorem takeItem_cons {x : Byte} {rest : List Byte} (h : s.inCh = x :: rest) :
    takeItem s = inStep x { s with inCh := rest } := by
  simp [takeItem, h]

/-- Everything a command can do in one step: be accepted, be abandoned by RESET, do one enabled PREFIX, IN,
OUT or DONE step, or wait. -/
theorem runCommand_cases (op : Opcode) (len : Nat) :
    (turn s = .cmd ∧ s.st = .idle ∧ runCommand op len s = passTurn (takeCommand (cmdStep op len s))) ∨
    (turn s = .reset ∧ runCommand op len s = passTurn (resetStep s)) ∨
    (turn s = .pfx ∧ s.opR = op ∧ s.lenR = len ∧ canPrefix s = true ∧
      runCommand op len s = passTurn (prefixStep s)) ∨
    (turn s = .inp ∧ s.opR = op ∧ s.lenR = len ∧ canIn s = true ∧
      runCommand op len s = passTurn (takeItem s)) ∨
    (turn s = .out ∧ s.opR = op ∧ s.lenR = len ∧ canOut s = true ∧
      runCommand op len s = passTurn (outStep s)) ∨
    (turn s = .done ∧ s.opR = op ∧ s.lenR = len ∧ canDone s = true ∧
      runCommand op len s = passTurn (doneStep s)) ∨
    (turn s ≠ .reset ∧ runCommand op len s = passTurn s) := by
  cases ht : turn s with
  | cmd =>
    by_cases h : s.st = .idle
    · exact .inl ⟨rfl, h, by simp [runCommand, ht, h]⟩
    · simp [runCommand, ht, h]
  | reset => exact .inr (.inl ⟨rfl, by simp [runCommand, ht]⟩)
  | pfx =>
    by_cases h : s.opR = op ∧ s.lenR = len <;> cases hc : canPrefix s <;>
      simp [runCommand, ht, h, workStep, hc]
  | inp =>
    by_cases h : s.opR = op ∧ s.lenR = len <;> cases hc : canIn s <;>
      simp [runCommand, ht, h, workStep, hc]
  | out =>
    by_cases h : s.opR = op ∧ s.lenR = len <;> cases hc : canOut s <;>
      simp [runCommand, ht, h, workStep, hc]
  | done =>
    by_cases h : s.opR = op ∧ s.lenR = len <;> cases hc : canDone s <;>
      simp [runCommand, ht, h, workStep, hc]

end Sys2Proof.Machine
end

