-- ==== Sys2Proof/Laws/Exec.lean ====
section
/-! SUPPORT. What one `exec` and one `step` can do. -/
namespace Sys2Proof.Machine

variable (s : State)

/-- Every meaning is one step of its own command. -/
theorem exec_eq_runCommand (i : Instr) : exec i s = .next (runCommand i.op i.len s) := by
  cases i <;> rfl

/-- The command that the command registers hold has these registers. -/
theorem instrOf_op_len (op : Opcode) (len : Nat) :
    (instrOf op len).op = op ∧ (instrOf op len).len = len := by
  have h : ∀ o : Opcode, (instrOf o len).op = o ∧ (instrOf o len).len = len := by
    intro o
    have ho : o = 0#3 ∨ o = 1#3 ∨ o = 2#3 ∨ o = 3#3 ∨ o = 4#3 ∨ o = 5#3 ∨ o = 6#3 ∨ o = 7#3 := by
      revert o; decide
    rcases ho with rfl | rfl | rfl | rfl | rfl | rfl | rfl | rfl <;> exact ⟨rfl, rfl⟩
  exact h op

/-! The direction bit `cmd_op[0]` of each command (30_encoding.md R72). -/

@[simp] theorem z85e_op_direction (n : Nat) : (Instr.z85e n).op[0] = false := by simp [Instr.op]
@[simp] theorem z85d_op_direction (n : Nat) : (Instr.z85d n).op[0] = true := by simp [Instr.op]
@[simp] theorem pz85e_op_direction (n : Nat) : (Instr.pz85e n).op[0] = false := by simp [Instr.op]
@[simp] theorem pz85d_op_direction (n : Nat) : (Instr.pz85d n).op[0] = true := by simp [Instr.op]
@[simp] theorem encg_op_direction (n : Nat) : (Instr.encg n).op[0] = false := by simp [Instr.op]
@[simp] theorem decg_op_direction (n : Nat) : (Instr.decg n).op[0] = true := by simp [Instr.op]

/-- What a fetch can be, by the turn and the control state. -/
theorem fetch_cases :
    (turn s = .reset ∧ fetch s = .resets) ∨
    (turn s = .cmd ∧ (s.st ≠ .idle ∨ s.cmdCh = []) ∧ fetch s = .waits) ∨
    (∃ w ws, turn s = .cmd ∧ s.st = .idle ∧ s.cmdCh = w :: ws ∧
      ((∃ i, decode s.cfg.lenw w = .ok i ∧ fetch s = .runs i) ∨
       (∃ e, decode s.cfg.lenw w = .error e ∧ fetch s = .tooWide))) ∨
    (turn s ≠ .reset ∧ turn s ≠ .cmd ∧ fetch s = .runs (instrOf s.opR s.lenR)) := by
  cases ht : turn s with
  | cmd =>
    cases hst : s.st with
    | idle =>
      cases hc : s.cmdCh with
      | nil => simp [fetch, ht, hst, hc]
      | cons w ws =>
        cases hd : decode s.cfg.lenw w with
        | ok i => simp [fetch, ht, hst, hc, hd]
        | error e => exact .inr (.inr (.inl ⟨w, ws, rfl, rfl, rfl, .inr ⟨e, hd, by simp [fetch, ht, hst, hc, hd]⟩⟩))
    | busy => simp [fetch, ht, hst]
    | halt => simp [fetch, ht, hst]
  | reset => simp [fetch, ht]
  | pfx => simp [fetch, ht]
  | inp => simp [fetch, ht]
  | out => simp [fetch, ht]
  | done => simp [fetch, ht]

/-- Everything one step of the machine can do when it answers a next state. -/
theorem step_cases {s t : State} (h : step s = .next t) :
    (turn s = .reset ∧ t = passTurn (resetStep s)) ∨
    (∃ w ws i, turn s = .cmd ∧ s.st = .idle ∧ s.cmdCh = w :: ws ∧ decode s.cfg.lenw w = .ok i ∧
      t = passTurn (takeCommand (cmdStep i.op i.len s))) ∨
    (turn s = .pfx ∧ canPrefix s = true ∧ t = passTurn (prefixStep s)) ∨
    (turn s = .inp ∧ canIn s = true ∧ t = passTurn (takeItem s)) ∨
    (turn s = .out ∧ canOut s = true ∧ t = passTurn (outStep s)) ∨
    (turn s = .done ∧ canDone s = true ∧ t = passTurn (doneStep s)) ∨
    (turn s ≠ .reset ∧ t = passTurn s) := by
  rcases fetch_cases s with ⟨ht, hf⟩ | ⟨ht, -, hf⟩ | ⟨w, ws, ht, hst, hc, hd⟩ | ⟨hr, hcmd, hf⟩
  · simp only [step, hf, Host.Outcome.next.injEq] at h
    exact .inl ⟨ht, h.symm⟩
  · simp only [step, hf, Host.Outcome.next.injEq] at h
    exact .inr (.inr (.inr (.inr (.inr (.inr ⟨by simp [ht], h.symm⟩)))))
  · rcases hd with ⟨i, hd, hf⟩ | ⟨e, hd, hf⟩
    · refine .inr (.inl ⟨w, ws, i, ht, hst, hc, hd, ?_⟩)
      have h' : runCommand i.op i.len s = t := by
        simpa only [step, hf, exec_eq_runCommand, Host.Outcome.next.injEq] using h
      rw [← h']
      simp only [runCommand, ht, canCmd_iff, hst, if_true]
    · simp [step, hf] at h
  · have hrun : t = runCommand s.opR s.lenR s := by
      have h' := h
      simp only [step, hf, exec_eq_runCommand, Host.Outcome.next.injEq, instrOf_op_len] at h'
      exact h'.symm
    subst hrun
    rcases runCommand_cases s s.opR s.lenR with
      ⟨ht, -⟩ | ⟨ht, -⟩ | ⟨ht, -, -, hc, e⟩ | ⟨ht, -, -, hc, e⟩ | ⟨ht, -, -, hc, e⟩ |
      ⟨ht, -, -, hc, e⟩ | ⟨ht, e⟩
    · exact absurd ht hcmd
    · exact absurd ht hr
    · exact .inr (.inr (.inl ⟨ht, hc, e⟩))
    · exact .inr (.inr (.inr (.inl ⟨ht, hc, e⟩)))
    · exact .inr (.inr (.inr (.inr (.inl ⟨ht, hc, e⟩))))
    · exact .inr (.inr (.inr (.inr (.inr (.inl ⟨ht, hc, e⟩)))))
    · exact .inr (.inr (.inr (.inr (.inr (.inr ⟨ht, e⟩)))))

end Sys2Proof.Machine
end

