-- ==== Sys2Proof/Laws/Group.lean ====
section
/-! SUPPORT. Digits and groups of the encoder as numbers (30_encoding.md R85). -/
namespace Sys2Proof.Machine

/-- The digit of weight `85^k` is exact on its 7 bits. -/
@[simp] theorem digit_toNat (w : Word) (k : Nat) : (digit w k).toNat = w.toNat / 85 ^ k % 85 := by
  simp only [digit, BitVec.toNat_ofNat]; omega

/-- A group as a number: base 128, the first field the most significant. -/
theorem groupBits_toNat (x0 x1 x2 x3 x4 : BitVec 7) : (groupBits x0 x1 x2 x3 x4).toNat =
    x0.toNat * 2 ^ 28 + x1.toNat * 2 ^ 21 + x2.toNat * 2 ^ 14 + x3.toNat * 2 ^ 7 + x4.toNat := by
  have h (n : Nat) (a : BitVec n) (b : BitVec 7) : (a ++ b).toNat = a.toNat * 2 ^ 7 + b.toNat := by
    rw [BitVec.toNat_append, ← Nat.shiftLeft_add_eq_or_of_lt b.isLt, Nat.shiftLeft_eq]
  simp only [groupBits, h]
  omega

/-- The fields of a group are what it was formed from. -/
theorem groupField_groupBits (x0 x1 x2 x3 x4 : BitVec 7) :
    groupField (groupBits x0 x1 x2 x3 x4) 4 = x0 ∧ groupField (groupBits x0 x1 x2 x3 x4) 3 = x1 ∧
    groupField (groupBits x0 x1 x2 x3 x4) 2 = x2 ∧ groupField (groupBits x0 x1 x2 x3 x4) 1 = x3 ∧
    groupField (groupBits x0 x1 x2 x3 x4) 0 = x4 := by
  have h := groupBits_toNat x0 x1 x2 x3 x4
  have b := x0.isLt; have b1 := x1.isLt; have b2 := x2.isLt; have b3 := x3.isLt; have b4 := x4.isLt
  refine ⟨?_, ?_, ?_, ?_, ?_⟩ <;>
    (apply BitVec.eq_of_toNat_eq
     simp only [groupField, BitVec.extractLsb'_toNat, Nat.shiftRight_eq_div_pow, h]
     omega)

/-- The 35-bit output of the encoder is the group of its five symbols. -/
theorem encGrpBits_eq (alphabet : List Sym) (w : Word) : encGrpBits alphabet w =
    groupBits (encRom alphabet (digit w 4)) (encRom alphabet (digit w 3)) (encRom alphabet (digit w 2))
      (encRom alphabet (digit w 1)) (encRom alphabet (digit w 0)) := by
  obtain ⟨h4, h3, h2, h1, h0⟩ := groupField_groupBits (digit w 4) (digit w 3) (digit w 2) (digit w 1) (digit w 0)
  simp only [encGrpBits, digitGroup, h4, h3, h2, h1, h0]

end Sys2Proof.Machine
end

