-- ==== Sys2Proof/Laws/PerInstr.lean ====
section
/-! SUPPORT. Facts stated for every command as syntax, one lemma per constructor. -/

/-- The fields of a command word (30_encoding.md R70): the opcode is the word modulo 8, the length operand the
rest. -/
def Sys2Proof.Laws.WordFields.Statement (i : Sys2Proof.Instr) : Prop :=
  Sys2Proof.encode i % 8 = i.op.toNat ∧ Sys2Proof.lenField (Sys2Proof.encode i) = i.len

namespace Sys2Proof.Laws.WordFields

/-- An opcode has three bits, so it is the remainder of the word by 8. -/
theorem of_op_width (i : Instr) : Statement i := by
  have h : i.op.toNat < 8 := i.op.isLt
  constructor <;> simp only [encode, lenField] <;> omega

theorem z85e (len : Nat) : Statement (.z85e len) := of_op_width _
theorem z85d (len : Nat) : Statement (.z85d len) := of_op_width _
theorem pz85e (len : Nat) : Statement (.pz85e len) := of_op_width _
theorem pz85d (len : Nat) : Statement (.pz85d len) := of_op_width _
theorem encg (len : Nat) : Statement (.encg len) := of_op_width _
theorem decg (len : Nat) : Statement (.decg len) := of_op_width _
theorem op6 (len : Nat) : Statement (.op6 len) := of_op_width _
theorem op7 (len : Nat) : Statement (.op7 len) := of_op_width _

end Sys2Proof.Laws.WordFields
end

