-- ==== Sys2Proof/Laws/Ports.lean ====
section
/-! SUPPORT. What a clock edge can do (30_encoding.md R78). -/
namespace Sys2Proof.Machine

/-- Everything the OUT beat of a cycle can do. -/
theorem outBeat_cases (s : State) (p : InputPins s.cfg.lenw) :
    (canOut s = true ∧ p.rst = false ∧ p.outReady = true ∧ outBeat s p = outStep s) ∨ outBeat s p = s := by
  by_cases h : p.rst = false ∧ canOut s = true ∧ p.outReady = true
  · obtain ⟨hr, hc, ho⟩ := h
    exact .inl ⟨hc, hr, ho, by simp [outBeat, outputPins, hr, hc, ho]⟩
  · refine .inr ?_
    exact if_neg (by simpa [outputPins, and_assoc] using h)

/-- Everything a clock edge can do: RESET, or the OUT beat of the cycle and then one of CMD, PREFIX, IN, DONE
that is enabled before the edge, or nothing more. -/
theorem clockEdge_cases (s : State) (p : InputPins s.cfg.lenw) :
    (p.rst = true ∧ clockEdge s p = resetStep s) ∨
    (p.rst = false ∧
      ((canCmd s = true ∧ p.cmdValid = true ∧
          clockEdge s p = cmdStep p.cmdOp p.cmdLen.toNat (outBeat s p)) ∨
       (canPrefix s = true ∧ clockEdge s p = prefixStep (outBeat s p)) ∨
       (canIn s = true ∧ p.inValid = true ∧ clockEdge s p = inStep p.inData (outBeat s p)) ∨
       (canDone s = true ∧ p.doneReady = true ∧ clockEdge s p = doneStep (outBeat s p)) ∨
       clockEdge s p = outBeat s p)) := by
  cases hr : p.rst with
  | true => exact .inl ⟨rfl, by simp [clockEdge, hr]⟩
  | false =>
    refine .inr ⟨rfl, ?_⟩
    simp only [clockEdge, hr, otherBeat, outputPins, Bool.not_false, Bool.true_and, Bool.false_eq_true, if_false,
      Bool.and_eq_true]
    by_cases h1 : canCmd s = true ∧ p.cmdValid = true
    · exact .inl ⟨h1.1, h1.2, if_pos h1⟩
    · by_cases h2 : canPrefix s = true
      · exact .inr (.inl ⟨h2, by rw [if_neg h1, if_pos h2]⟩)
      · by_cases h3 : canIn s = true ∧ p.inValid = true
        · exact .inr (.inr (.inl ⟨h3.1, h3.2, by rw [if_neg h1, if_neg h2, if_pos h3]⟩))
        · by_cases h4 : canDone s = true ∧ p.doneReady = true
          · exact .inr (.inr (.inr (.inl ⟨h4.1, h4.2, by rw [if_neg h1, if_neg h2, if_neg h3, if_pos h4]⟩)))
          · exact .inr (.inr (.inr (.inr (by rw [if_neg h1, if_neg h2, if_neg h3, if_neg h4]))))

end Sys2Proof.Machine
end

