-- ==== Sys2Proof/Tests/Slice0.lean ====
section
/-! SUPPORT. The author's own tests, with expected results from the spec's tables and vectors, and for every
statement with hypotheses a state that meets them. -/
set_option Elab.async false

namespace Sys2Proof.Machine

/-! ### Helpers -/

/-- An idle core after reset with these offers and this schedule. -/
def idleWith (words : List Nat) (items : List Byte) (turns : List Turn) : State :=
  { State.reset with cmdCh := words, inCh := items, sched := turns }

/-- A busy core that holds the command `(op, len)` with `n` items consumed. -/
def busyWith (op : Opcode) (len n : Nat) (items : List Byte) (turns : List Turn) : State :=
  { State.reset with
    st := .busy, opR := op, lenR := len, inCnt := n, firstGrp := true, inCh := items, sched := turns }

/-- A packer with three bytes. -/
def packed (s : State) (acc : Word) : State := { s with packAcc := acc, packN := 3#2 }

/-- A decoder with four symbols. -/
def decoding (s : State) (acc : Word) : State := { s with decAcc := acc, decN := 4#3 }

/-- Three fields of the state after a step, if there is one. -/
def after {α : Type} (r : Host.Outcome State Fault Refusal) (f : State → α) : Option α :=
  match r with
  | .next t => some (f t)
  | .fault _ => none
  | .refused _ => none

/-! ### WellFormed: a term that its one check refuses (R73) -/

theorem test_wellFormed_refuses_a_length_of_17_bits : (Instr.z85e 65536).wellFormed 16 = false := by decide
theorem test_wellFormed_accepts_the_longest_length : (Instr.z85e 65535).wellFormed 16 = true := by decide

/-! ### Decoding: the word of each command, `cmd_len` above `cmd_op` (R70, R72, 95_test_vectors.md) -/

theorem test_decode_z85e : decode 16 0b0000000000001000000 = .ok (.z85e 8) := by decide
theorem test_decode_z85d : decode 16 0b0000000000001010001 = .ok (.z85d 10) := by decide
theorem test_decode_pz85e : decode 16 0b0000000000000001010 = .ok (.pz85e 1) := by decide
theorem test_decode_pz85d : decode 16 0b0000000000000101011 = .ok (.pz85d 5) := by decide
theorem test_decode_encg : decode 16 0b0000000000000111100 = .ok (.encg 7) := by decide
theorem test_decode_decg : decode 16 0b0000000000000011101 = .ok (.decg 3) := by decide
theorem test_decode_op6 : decode 16 0b1111111111111111110 = .ok (.op6 65535) := by decide
theorem test_decode_op7 : decode 16 0b0000000000001001111 = .ok (.op7 9) := by decide
theorem test_decode_refuses_20_bits : decode 16 0b10000000000000000000 = .error .commandTooWide := by decide
theorem test_decodeTableWord_reads_the_rows :
    (List.range 8).map (fun w => decodeTableWord 24 w) =
      [some (.z85e 0), some (.z85d 0), some (.pz85e 0), some (.pz85d 0), some (.encg 0), some (.decg 0),
       some (.op6 0), some (.op7 0)] := by decide

/-! ### The tables (R79, R80, R82, R83) -/

theorem test_default_parameters_are_legal : Config.default.Legal := by decide +kernel
theorem test_encRom_default : [0, 9, 10, 35, 36, 61, 62, 68, 84].map (encRom defaultAlphabet) =
    [0x30#7, 0x39#7, 0x61#7, 0x7A#7, 0x41#7, 0x5A#7, 0x2E#7, 0x21#7, 0x23#7] := by decide
theorem test_decLookup_unused_slots :
    [32#8, 34#8, 39#8, 44#8, 59#8, 92#8, 95#8, 96#8, 124#8, 126#8, 127#8, 10#8, 0xC8#8, 128#8].all
      (fun x => decLookup defaultAlphabet x == { valid := false, digit := 0#7 }) = true := by decide +kernel
theorem test_decLookup_symbols : [0x21#8, 0x30#8, 0x7D#8, 0x5B#8].map (decLookup defaultAlphabet) =
    [{ valid := true, digit := 68#7 }, { valid := true, digit := 0#7 }, { valid := true, digit := 80#7 },
     { valid := true, digit := 77#7 }] := by decide +kernel

/-! ### The units (R109, R149) -/

theorem test_digits_corners :
    [0x00000055#32, 0x031C84B1#32, 0x80000000#32, 0x864FD26F#32, 0xFFFFFFFF#32].map digits =
      [[0, 0, 0, 1, 0], [1, 0, 0, 0, 0], [41, 11, 69, 48, 43], [43, 14, 21, 21, 24], [82, 23, 54, 12, 0]] := by
  decide
theorem test_digitGroup_Hello : digitGroup 0x864FD26F#32 =
    0b01010110001110001010100101010011000#35 := by decide
theorem test_encGrpBits_Hello : encGrpBits defaultAlphabet 0x864FD26F#32 =
    0b10010001100101110110011011001101111#35 := by decide
theorem test_encItems_World : encItems defaultAlphabet 0xB559F75B#32 =
    [0x57#8, 0x6F#8, 0x72#8, 0x6C#8, 0x64#8] := by decide
theorem test_decGrp_smallest_overflow : decGrp defaultAlphabet 0x25#8 0x6E#8 0x53#8 0x63#8 0x31#8 =
    { w := 0#32, bad := false, ovf := true } := by decide +kernel
theorem test_decGrp_middle_digit_overflow : decGrp defaultAlphabet 0x25#8 0x6E#8 0x53#8 0x64#8 0x30#8 =
    { w := 0x54#32, bad := false, ovf := true } := by decide +kernel
theorem test_padLen_table : [0, 1, 2, 3, 4, 5].map padLen = [3, 2, 1, 0, 3, 2] := by decide

/-! ### One step of each command (95_test_vectors.md section 3) -/

theorem test_z85e_fourth_byte :
    after (exec (.z85e 8) (packed (busyWith 0#3 8 3 [0x6F#8] []) 0x864FD2#32))
      (fun t => (t.inCnt, t.packN, t.oq)) = some (4, 0#2, [0x48#8, 0x65#8, 0x6C#8, 0x6C#8, 0x6F#8]) := by
  decide +kernel
theorem test_z85e_bad_length_discards :
    after (exec (.z85e 3) (busyWith 0#3 3 1 [0x4F#8] [])) (fun t => (t.inCnt, t.packN, t.inCh)) =
      some (2, 0#2, []) := by decide +kernel
theorem test_z85d_space_marks_the_group :
    after (exec (.z85d 10) { busyWith 1#3 10 8 [0x20#8] [] with decAcc := 0x66CFD#32, decN := 3#3 })
      (fun t => (t.decAcc, t.decN, t.decBad)) = some (0x2223001#32, 4#3, true) := by decide +kernel
theorem test_z85d_fifth_symbol :
    after (exec (.z85d 10) (decoding (busyWith 1#3 10 4 [0x6F#8] []) 0x19483FB#32))
      (fun t => (t.decAcc, t.firstGrp, t.oq)) =
      some (0#32, false, [0x86#8, 0x4F#8, 0xD2#8, 0x6F#8]) := by decide +kernel
theorem test_pz85e_header_byte :
    after (exec (.pz85e 1) { busyWith 2#3 1 0 [] [] with preN := 3#3 })
      (fun t => (t.preN, t.packAcc, t.packN)) = some (2#3, 2#32, 1#2) := by decide +kernel
theorem test_pz85e_zero_byte :
    after (exec (.pz85e 1) { busyWith 2#3 1 0 [] [] with preN := 2#3, packAcc := 2#32, packN := 1#2 })
      (fun t => (t.preN, t.packAcc, t.packN)) = some (1#3, 0x200#32, 2#2) := by decide +kernel
theorem test_pz85d_strips_the_header :
    after (exec (.pz85d 5) (decoding (busyWith 3#3 5 4 [0x33#8] []) 0x60606#32))
      (fun t => (t.oor, t.firstGrp, t.oq)) = some (false, false, [0x01#8]) := by decide +kernel
theorem test_pz85d_header_out_of_range :
    after (exec (.pz85d 5) (decoding (busyWith 3#3 5 4 [0x34#8] []) 0xC0C0C#32))
      (fun t => (t.oor, t.firstGrp, t.oq)) = some (true, false, []) := by decide +kernel
theorem test_pz85d_done_halts :
    after (exec (.pz85d 5) { busyWith 3#3 5 5 [] [] with oor := true })
      (fun t => (t.st, t.sink)) = some (.halt, [.status { status := .outOfRange, ovf := false }]) := by
  decide +kernel
theorem test_pz85d_bad_symbol_wins :
    after (exec (.pz85d 10) { busyWith 3#3 10 10 [] [] with oor := true, badR := true })
      (fun t => (t.st, t.sink)) = some (.idle, [.status { status := .badSymbol, ovf := false }]) := by
  decide +kernel
theorem test_encg_ignores_its_length :
    after (exec (.encg 7) (packed (busyWith 4#3 7 3 [0x01#8] []) 0#32)) (fun t => (t.inCnt, t.oq)) =
      some (4, [0x30#8, 0x30#8, 0x30#8, 0x30#8, 0x31#8]) := by decide +kernel
theorem test_decg_overflow :
    after (exec (.decg 0) (decoding (busyWith 5#3 0 4 [0x31#8] []) 0x3030303#32))
      (fun t => (t.ovfR, t.decOvf, t.oq)) = some (true, false, [0#8, 0#8, 0#8, 0#8]) := by decide +kernel
theorem test_op6_done :
    after (exec (.op6 5) (busyWith 6#3 5 0 [0xAA#8] [])) (fun t => (t.st, t.inCh, t.sink)) =
      some (.idle, [0xAA#8], [.status { status := .illegalOp, ovf := false }]) := by decide +kernel
theorem test_op7_is_accepted :
    after (exec (.op7 9) (idleWith [] [] [.cmd])) (fun t => (t.st, t.opR, t.lenR)) =
      some (.busy, 7#3, 9) := by decide +kernel
theorem test_cmd_loads_the_prefix :
    after (step (idleWith [0x0A] [] [])) (fun t => (t.st, t.preN, t.firstGrp)) =
      some (.busy, 3#3, true) := by decide +kernel
theorem test_full_queue_stops_in :
    canIn { busyWith 0#3 8 4 [0xB5#8] [] with oq := [0x65#8, 0x6C#8, 0x6C#8, 0x6F#8] } = false := by
  decide +kernel
theorem test_withFetchWord_runs_the_word :
    after (step (State.reset.withFetchWord 24 0x4F)) (fun t => (t.st, t.opR, t.lenR)) =
      some (.busy, 7#3, 9) := by decide +kernel
theorem test_reset_waits_without_an_offer :
    after (step State.reset) (fun t => decide (t = State.reset)) = some true := by decide +kernel
theorem test_halt_pins : (outputPins false { State.reset with st := .halt }).fatal = true ∧
    (outputPins false { State.reset with st := .halt }).cmdReady = false := by decide

/-! ### Frames (V1, V4, V6, R178) -/

theorem test_frame_HelloWorld :
    frameResult defaultAlphabet (.z85e 8) [0x86#8, 0x4F#8, 0xD2#8, 0x6F#8, 0xB5#8, 0x59#8, 0xF7#8, 0x5B#8] =
      .ok [0x48#8, 0x65#8, 0x6C#8, 0x6C#8, 0x6F#8, 0x57#8, 0x6F#8, 0x72#8, 0x6C#8, 0x64#8] false := by
  decide +kernel
theorem test_frame_padded_out_of_range :
    frameResult defaultAlphabet (.pz85d 5) [0x31#8, 0x6F#8, 0x6E#8, 0x41#8, 0x34#8] = .fatal := by
  decide +kernel
theorem test_frame_padded_one_byte :
    frameResult defaultAlphabet (.pz85e 1) [0x01#8] =
      .ok [0x30#8, 0x53#8, 0x53#8, 0x69#8, 0x33#8] false := by decide +kernel

/-! ### Witnesses: for each statement with hypotheses, a state and operands that meet all of them -/

theorem witness_CommandWordsDecodeAndEncodeAgree :
    (Instr.z85e 65535).wellFormed 16 = true ∧ decode 16 (2 ^ 19 - 1) = .ok (.op7 65535) ∧
      decode 16 (2 ^ 19) = .error .commandTooWide := by decide
theorem witness_StepRunsTheDecodedCommand :
    (idleWith [64] [] []).st = .idle ∧ turn (idleWith [64] [] []) = .cmd ∧ decode 16 64 = .ok (.z85e 8) ∧
      (Instr.z85e 8).wellFormed 16 = true ∧ encode (.z85e 8) = 64 ∧
      turn (busyWith 0#3 8 0 [] [.inp]) = .inp ∧ (busyWith 0#3 8 0 [] [.inp]).opR = (Instr.z85e 8).op ∧
      turn (idleWith [] [] []) = .cmd := by decide +kernel
theorem witness_StepIsTotalOnCommandWords :
    turn (idleWith [2 ^ 19] [] []) = .cmd ∧ step (idleWith [2 ^ 19] [] []) = .refused .commandTooWide := by
  exact ⟨by decide +kernel, by rfl⟩
theorem witness_IdleCoreAcceptsEveryCommand :
    (idleWith [] [] [.cmd]).st = .idle ∧ turn (idleWith [] [] [.cmd]) = .cmd := by decide
theorem witness_CommandWaitsOutsideIdle :
    (busyWith 0#3 8 0 [] [.cmd]).st ≠ .idle ∧ turn (busyWith 0#3 8 0 [] [.cmd]) = .cmd ∧
      (outputPins false State.reset).cmdReady = true := by decide
theorem witness_TurnWithoutBeatChangesNothing :
    (turn (busyWith 0#3 8 0 [] [.pfx]) = .pfx ∧ (busyWith 0#3 8 0 [] [.pfx]).preN = 0#3) ∧
    (turn (busyWith 0#3 8 8 [1#8] [.inp]) = .inp ∧ ¬ 8 < need 0#3 8) ∧
    (turn (busyWith 0#3 8 0 [] [.inp]) = .inp ∧ (busyWith 0#3 8 0 [] [.inp]).inCh = []) ∧
    (turn (busyWith 0#3 8 0 [] [.out]) = .out ∧ (busyWith 0#3 8 0 [] [.out]).oq = []) ∧
    (turn (busyWith 0#3 8 7 [] [.done]) = .done ∧ 7 ≠ need 0#3 8) ∧
    (turn (busyWith 0#3 8 0 [] [.inp]) ≠ .cmd ∧ (busyWith 0#3 8 0 [] [.inp]).opR ≠ (Instr.op7 0).op) := by
  decide
theorem witness_PrefixStepFeedsHeaderThenZeros :
    ∀ s ∈ [{ busyWith 2#3 1 0 [] [] with preN := 3#3 },
           packed { busyWith 2#3 0 0 [] [] with preN := 1#3 } 0x030000#32],
      s.st = .busy ∧ s.opR = 2#3 ∧ turn s = .pfx ∧ s.preN ≠ 0#3 ∧ s.oq.length + 5 ≤ s.cfg.oqDepth := by
  decide +kernel
theorem witness_EncodeInputPacksAndEmitsGroups :
    ∀ i ∈ [Instr.z85e 8, .pz85e 8, .encg 8],
      ∀ s ∈ [busyWith i.op 8 0 [0x6F#8] [], packed (busyWith i.op 8 3 [0x6F#8] []) 0x864FD2#32],
      s.st = .busy ∧ s.opR = i.op ∧ s.lenR = 8 ∧ turn s = .inp ∧ s.inCh = [0x6F#8] ∧ s.preN = 0#3 ∧
        s.inCnt < need i.op 8 ∧ s.oq.length + 5 ≤ s.cfg.oqDepth ∧ early i.op 8 = none := by decide +kernel
theorem witness_DecodeInputAccumulates :
    ∀ i ∈ [Instr.z85d 10, .pz85d 10, .decg 10],
      let s := busyWith i.op 10 0 [0x6F#8] []
      s.st = .busy ∧ s.opR = i.op ∧ s.lenR = 10 ∧ turn s = .inp ∧ s.inCh = [0x6F#8] ∧ s.preN = 0#3 ∧
        s.inCnt < need i.op 10 ∧ s.oq.length + 5 ≤ s.cfg.oqDepth ∧ early i.op 10 = none ∧ s.decN ≠ 4#3 := by
  decide +kernel
theorem witness_DecodeGroupCompletionChecksAndEmits :
    ∀ i ∈ [Instr.z85d 10, .pz85d 10, .decg 10],
      let s := decoding (busyWith i.op 10 4 [0x6F#8] []) 0x19483FB#32
      s.st = .busy ∧ s.opR = i.op ∧ s.lenR = 10 ∧ turn s = .inp ∧ s.inCh = [0x6F#8] ∧ s.preN = 0#3 ∧
        s.inCnt < need i.op 10 ∧ s.oq.length + 5 ≤ s.cfg.oqDepth ∧ early i.op 10 = none ∧ s.decN = 4#3 := by
  decide +kernel
theorem witness_EarlyFailureDiscardsInput :
    ∀ i ∈ [Instr.z85e 3, .z85d 1, .pz85d 6],
      let s := busyWith i.op i.len 0 [0x6F#8] []
      s.st = .busy ∧ s.opR = i.op ∧ s.lenR = i.len ∧ turn s = .inp ∧ s.inCh = [0x6F#8] ∧ s.preN = 0#3 ∧
        s.inCnt < need i.op i.len ∧ s.oq.length + 5 ≤ s.cfg.oqDepth ∧ early i.op i.len ≠ none ∧
        0 < need i.op i.len := by
  decide +kernel

/-- A busy `Z85E` core with one item in the queue: all invariants hold. -/
def outDue : State := { busyWith 0#3 4 4 [] [] with oq := [0x6F#8] }

theorem witness_inv_of_outDue : Inv outDue := by
  constructor <;> decide +kernel
theorem witness_OutStepDeliversTheHead :
    outDue.opR = (Instr.z85e 4).op ∧ outDue.lenR = (Instr.z85e 4).len ∧ turn outDue = .out ∧
      outDue.oq = [0x6F#8] ∧ (outputPins false outDue).outValid = true := by decide +kernel
theorem witness_DoneStepReportsTheStatus :
    ∀ i ∈ [Instr.z85e 4, .z85d 5, .pz85e 4, .pz85d 5, .encg 0, .decg 0, .op6 1, .op7 1],
      let s := busyWith i.op i.len (need i.op i.len) [] []
      s.st = .busy ∧ s.opR = i.op ∧ s.lenR = i.len ∧ turn s = .done ∧ s.preN = 0#3 ∧
        s.inCnt = need i.op i.len ∧ s.oq = [] ∧ (outputPins false s).doneValid = true := by decide +kernel
theorem witness_ReservedOpcodeEndsInIllegalOp :
    ∀ i ∈ [Instr.op6 65535, .op7 65535],
      let s := idleWith [encode i] [0xAA#8] []
      i.wellFormed s.cfg.lenw = true ∧ s.st = .idle ∧ s.oq = [] ∧ s.sched = [] ∧ s.cmdCh = [encode i] := by
  decide +kernel
theorem witness_ResetStepFromEveryState :
    turn (busyWith 0#3 8 4 [] [.reset]) = .reset := by decide
theorem witness_HaltIsLeftByResetOnly :
    let s := { idleWith [4] [0x86#8] [.cmd, .inp] with st := .halt }
    s.st = .halt ∧ s.oq = [] ∧ NoReset s := by decide
theorem witness_ControlStateTransitions :
    turn outDue ≠ .reset ∧ after (step outDue) (fun t => t.st) = some .busy := by decide +kernel
theorem witness_CoincidentBeatsAreTwoSteps :
    (canIn { busyWith 0#3 8 4 [] [] with oq := [1#8] } = true ∧
      canOut { busyWith 0#3 8 4 [] [] with oq := [1#8] } = true) ∧
    (canPrefix { busyWith 2#3 0 0 [] [] with preN := 1#3, oq := [1#8] } = true ∧
      canOut { busyWith 2#3 0 0 [] [] with preN := 1#3, oq := [1#8] } = true) ∧
    canPrefix State.reset = false := by decide
theorem witness_EnabledStepsCommute :
    Inv outDue ∧ outDue.oq ≠ [] ∧ canOut outDue = true ∧ canCmd State.reset = true ∧
      canDone (busyWith 0#3 4 4 [] []) = true ∧ canIn (busyWith 0#3 4 0 [] []) = true ∧
      canPrefix { busyWith 2#3 0 0 [] [] with preN := 1#3 } = true :=
  ⟨witness_inv_of_outDue, by decide⟩
theorem witness_StalledSinkStopsTheCore :
    let s := { busyWith 0#3 8 4 [0xB5#8] [.inp, .done, .cmd] with oq := [1#8, 2#8, 3#8, 4#8] }
    5 ≤ s.cfg.oqDepth ∧ s.st = .busy ∧ s.cfg.oqDepth < s.oq.length + 5 ∧ 3 ≤ s.sched.length ∧
      (∀ t ∈ s.sched, t ≠ .out ∧ t ≠ .reset) := by decide
theorem witness_QueueKeepsItemOrder :
    turn outDue ≠ .reset ∧ after (step outDue) (fun t => t.sink) = some [.item 0x6F#8] := by decide +kernel
theorem witness_StatusComesAfterAllItems :
    after (step (busyWith 0#3 4 4 [] [])) (fun t => t.sink) =
      some [.status { status := .ok, ovf := false }] := by decide +kernel
theorem witness_EarlierFramesDoNotInfluenceTheNext :
    let s := idleWith [4] [0x86#8] []
    let u := { s with badR := true, inCnt := 7, opR := 1#3, lenR := 9 }
    s.cfg = u.cfg ∧ s.st = .idle ∧ u.st = .idle ∧ s.oq = [] ∧ u.oq = [] ∧ s.cmdCh = [4] ∧ u.cmdCh = [4] ∧
      s.inCh = u.inCh ∧ s.sink = u.sink ∧ s.sched = u.sched ∧ turn s = .cmd ∧ s ≠ u := by decide +kernel
theorem witness_StepKeepsTheInvariants :
    Inv outDue ∧ after (step outDue) (fun t => t.oq) = some [] :=
  ⟨witness_inv_of_outDue, by decide +kernel⟩
theorem witness_ReachableStatesSatisfyTheInvariants :
    outDue.cfg.Legal ∧ (∀ w ∈ outDue.cmdCh, w < 2 ^ (outDue.cfg.lenw + 3)) ∧
      after (runs 2 (resetStep outDue)) (fun t => t.st) = some .idle :=
  ⟨test_default_parameters_are_legal, by decide +kernel⟩
theorem witness_InvariantsHoldAtReset :
    outDue.cfg.Legal ∧ (∀ w ∈ outDue.cmdCh, w < 2 ^ (outDue.cfg.lenw + 3)) ∧ resetStep outDue ≠ outDue :=
  ⟨test_default_parameters_are_legal, by decide +kernel⟩
theorem witness_StepKeepsParametersAndDeliveries :
    after (step { outDue with sink := [.item 1#8] }) (fun t => t.sink) = some [.item 1#8, .item 0x6F#8] := by
  decide +kernel
theorem witness_DigitsAreTheBase85Expansion :
    (0x864FD26F#32).toNat = 43 * 85 ^ 4 + 14 * 85 ^ 3 + 21 * 85 ^ 2 + 21 * 85 + 24 := by decide
/-- A host that offers `PZ85E` of the longest length on the command port. -/
def longestCommand : InputPins 16 :=
  { rst := false, cmdValid := true, cmdOp := 2#3, cmdLen := 65535#16, inValid := false, inData := 0#8
    outReady := false, doneReady := false }
theorem test_clockEdge_latches_the_length_port :
    (clockEdge State.reset longestCommand).lenR = 65535 ∧ (clockEdge State.reset longestCommand).preN = 1#3 := by
  decide +kernel
theorem witness_CommandBeatIsTheCommandWord :
    longestCommand.rst = false ∧ longestCommand.cmdValid = true ∧ State.reset.cfg.lenw = 16 ∧
      (idleWith [] [] [.cmd]).st = .idle ∧ (idleWith [] [] [.cmd]).oq = [] ∧
      turn (idleWith [] [] [.cmd]) = .cmd := by decide
theorem witness_ClockEdgeKeepsTheInvariants :
    Inv outDue ∧ (clockEdge outDue { longestCommand with outReady := true }).oq = [] :=
  ⟨witness_inv_of_outDue, by decide +kernel⟩
theorem witness_TableReadsInvertEachOther :
    Config.default.Legal ∧ (decLookup defaultAlphabet 0x23#8).valid = true ∧
      (decLookup defaultAlphabet 0x20#8).valid = false ∧ (decLookup defaultAlphabet 0x7F#8).valid = false :=
  ⟨test_default_parameters_are_legal, by decide +kernel⟩
theorem witness_EncoderIsInjectiveIntoTheAlphabet :
    Config.default.Legal ∧ encGrp defaultAlphabet 0x864FD26F#32 = encGrp defaultAlphabet 0x864FD26F#32 :=
  ⟨test_default_parameters_are_legal, rfl⟩
theorem witness_EncodeLengthLaws :
    [1#8, 2#8, 3#8, 4#8].length % 4 = 0 ∧ [1#8].length % 4 ≠ 0 := by decide
theorem witness_FourBytesPackOneGroup : State.reset.packAcc = 0#32 ∧ State.reset.packN = 0#2 := by decide
theorem witness_FiveSymbolsDecodeOneGroup :
    State.reset.decAcc = 0#32 ∧ State.reset.decN = 0#3 ∧ State.reset.decBad = false ∧
      State.reset.decOvf = false := by decide
theorem witness_CanonicalGroupsAreEncoderOutputs :
    Config.default.Legal ∧
      encItems defaultAlphabet 0#32 = [0x30#8, 0x30#8, 0x30#8, 0x30#8, 0x30#8] ∧
      decGrp defaultAlphabet 0x25#8 0x6E#8 0x53#8 0x63#8 0x30#8 =
        { w := 0xFFFFFFFF#32, bad := false, ovf := false } ∧
      decGrp defaultAlphabet 0x24#8 0x30#8 0x30#8 0x30#8 0x30#8 =
        { w := 0x023F0563#32, bad := false, ovf := true } :=
  ⟨test_default_parameters_are_legal, by decide +kernel⟩
theorem witness_OverflowDependsOnTheLeadingDigits :
    Config.default.Legal ∧ (decLookup defaultAlphabet 0x25#8).digit.toNat = 82 ∧
      (decLookup defaultAlphabet 0x24#8).digit.toNat = 83 :=
  ⟨test_default_parameters_are_legal, by decide +kernel⟩
theorem witness_UnpaddedRoundTrip :
    Config.default.Legal ∧ [0#8, 0#8, 0#8, 0#8].length % 4 = 0 ∧
      z85Decode defaultAlphabet [0x25#8, 0x6E#8, 0x53#8, 0x63#8, 0x31#8] = .ok [0#8, 0#8, 0#8, 0#8] true :=
  ⟨test_default_parameters_are_legal, by decide +kernel⟩
theorem witness_PaddedRoundTrip :
    Config.default.Legal ∧ pz85Decode defaultAlphabet [0x30#8, 0x40#8, 0x40#8, 0x72#8, 0x33#8] = .ok [] false ∧
      pz85Encode defaultAlphabet [] = .ok [0x30#8, 0x40#8, 0x40#8, 0x72#8, 0x33#8] false :=
  ⟨test_default_parameters_are_legal, by decide +kernel⟩
theorem witness_DecodeLengthLaws :
    frameStatus defaultAlphabet (.z85d 5) [0x30#8, 0x30#8, 0x30#8, 0x30#8, 0x30#8] = .ok ∧
    frameStatus defaultAlphabet (.z85d 5) [0x30#8, 0x30#8, 0x30#8, 0x30#8, 0x20#8] = .badSymbol ∧
    frameStatus defaultAlphabet (.pz85d 5) [0x30#8, 0x30#8, 0x30#8, 0x30#8, 0x30#8] = .ok ∧
    frameStatus defaultAlphabet (.pz85d 5) [0x20#8, 0x30#8, 0x30#8, 0x30#8, 0x30#8] = .badSymbol ∧
    frameStatus defaultAlphabet (.pz85d 10)
      ([0x30#8, 0x30#8, 0x30#8, 0x30#8, 0x30#8] ++ [0x20#8, 0x30#8, 0x30#8, 0x30#8, 0x30#8]) = .badSymbol ∧
    frameStatus defaultAlphabet (.pz85d 10)
      ([0x31#8, 0x6F#8, 0x6E#8, 0x41#8, 0x34#8] ++ [0x20#8, 0x30#8, 0x30#8, 0x30#8, 0x30#8]) = .badSymbol ∧
    frameStatus defaultAlphabet (.pz85d 5) [0x31#8, 0x6F#8, 0x6E#8, 0x41#8, 0x34#8] = .outOfRange ∧
    frameStatus defaultAlphabet (.z85d 1) [0x31#8] = .invalidLength := by decide +kernel
theorem witness_EncodingIsPiecewise :
    [0x86#8, 0x4F#8, 0xD2#8, 0x6F#8].length % 4 = 0 ∧ ([] : List Byte).length % 4 = 0 := by decide
theorem witness_ItemOutsideTheAlphabetIsBadSymbol :
    Config.default.Legal ∧ [0x48#8, 0x65#8, 0x6C#8, 0x20#8, 0x80#8].length % 5 = 0 ∧
      (∀ a ∈ defaultAlphabet, 0x80#8 ≠ symItem a) ∧ 0x20#8 ∈ [9#8, 10#8, 11#8, 12#8, 13#8, 32#8] :=
  ⟨test_default_parameters_are_legal, by decide +kernel⟩
theorem witness_FatalNeedsAGoodFrameWithABadHeader :
    Config.default.Legal ∧ pz85Decode defaultAlphabet [0x31#8, 0x6F#8, 0x6E#8, 0x41#8, 0x34#8] = .fatal :=
  ⟨test_default_parameters_are_legal, by decide +kernel⟩
theorem witness_PaddingBytesAreNotChecked :
    Config.default.Legal ∧ (2#8).toNat ≤ 3 ∧ [0xFF#8, 0xFF#8].length = (2#8).toNat ∧
      z85Encode defaultAlphabet ([2#8] ++ [0xFF#8, 0xFF#8] ++ [0x41#8]) =
        .ok [0x30#8, 0x40#8, 0x40#8, 0x6F#8, 0x5E#8] false :=
  ⟨test_default_parameters_are_legal, by decide +kernel⟩
/-- A `DECG` frame followed by another command and another item. -/
def decgFrame : State :=
  idleWith [encode (.decg 3), 64] [0x48#8, 0x65#8, 0x6C#8, 0x6C#8, 0x6F#8, 0x30#8] []

/-- A `PZ85E` frame of one byte under a schedule that tries IN and OUT too early. -/
def paddedFrame : State := idleWith [encode (.pz85e 1)] [0x01#8] [.inp, .cmd, .out, .pfx]

theorem witness_EagerRunDeliversTheFrameResult :
    decgFrame.cfg.Legal ∧ (Instr.decg 3).wellFormed decgFrame.cfg.lenw = true ∧ decgFrame.st = .idle ∧
      decgFrame.oq = [] ∧ decgFrame.sched = [] ∧ decgFrame.cmdCh = encode (.decg 3) :: [64] ∧
      decgFrame.inCh = [0x48#8, 0x65#8, 0x6C#8, 0x6C#8, 0x6F#8] ++ [0x30#8] ∧
      [0x48#8, 0x65#8, 0x6C#8, 0x6C#8, 0x6F#8].length = need (Instr.decg 3).op 3 :=
  ⟨test_default_parameters_are_legal, by decide +kernel⟩
theorem witness_EveryScheduleDeliversTheSameFrame :
    paddedFrame.cfg.Legal ∧ (Instr.pz85e 1).wellFormed paddedFrame.cfg.lenw = true ∧
      paddedFrame.st = .idle ∧ paddedFrame.oq = [] ∧ NoReset paddedFrame ∧
      paddedFrame.cmdCh = [encode (.pz85e 1)] ∧ paddedFrame.inCh.length = need (Instr.pz85e 1).op 1 ∧
      after (runs 4 paddedFrame) (fun t => t.preN) = some 2#3 :=
  ⟨test_default_parameters_are_legal, by decide +kernel⟩
theorem witness_GroupCommandsEqualOneGroupFrames :
    State.reset.cfg.Legal ∧ ∀ g ∈ [Instr.encg 9, .decg 9],
      let s := idleWith [encode g] [0x48#8, 0x65#8, 0x6C#8, 0x6C#8, 0x6F#8] []
      s.cfg = State.reset.cfg ∧ g.wellFormed s.cfg.lenw = true ∧ s.cmdCh = [encode g] ∧
        after (runs 1 s) (fun t => t.st) = some .busy :=
  ⟨test_default_parameters_are_legal, by decide +kernel⟩

end Sys2Proof.Machine
end

/-! SUPPORT. What single steps do to the control state, the queue and the channels (10_state.md R23, R33, R34,
R35, R39). -/
namespace Sys2Proof.Machine

/-! ### Facts about the operand forms -/

theorem padLen_le (n : Nat) : padLen n ≤ 3 := by
  unfold padLen; omega

/-- The header, the padding and the payload fill whole groups (R160). -/
theorem padLen_completes (n : Nat) : (1 + padLen n + n) % 4 = 0 := by
  unfold padLen; omega

@[simp] theorem encItems_length (alphabet : List Sym) (w : Word) : (encItems alphabet w).length = 5 := by
  simp [encItems, encGrp, digits]

/-- `PZ85E` has no early failure (R24). -/
@[simp] theorem early_pz85e (len : Nat) : early 2#3 len = none := by
  simp [early]

/-- `OUT_OF_RANGE` is never known from the command alone (R24). -/
theorem early_ne_outOfRange (op : Opcode) (len : Nat) : early op len ≠ some .outOfRange := by
  unfold early
  repeat' split
  all_goals simp

/-- The encode commands without an early failure. -/
theorem encode_op_cases {op : Opcode} {len : Nat} (hd : op[0] = false) (he : early op len = none) :
    (op = 0#3 ∧ len % 4 = 0) ∨ op = 2#3 ∨ op = 4#3 := by
  have even_cases : ∀ o : Opcode, o[0] = false → o = 0#3 ∨ o = 2#3 ∨ o = 4#3 ∨ o = 6#3 := by decide
  rcases even_cases op hd with rfl | rfl | rfl | rfl
  · exact .inl ⟨rfl, by simpa [early] using he⟩
  · exact .inr (.inl rfl)
  · exact .inr (.inr rfl)
  · simp [early] at he

/-- The decode commands without an early failure. -/
theorem decode_op_cases {op : Opcode} {len : Nat} (hd : op[0] = true) (he : early op len = none) :
    ((op = 1#3 ∨ op = 3#3) ∧ len % 5 = 0) ∨ op = 5#3 := by
  have odd_cases : ∀ o : Opcode, o[0] = true → o = 1#3 ∨ o = 3#3 ∨ o = 5#3 ∨ o = 7#3 := by decide
  have groups (h : op = 1#3 ∨ op = 3#3) : len % 5 = 0 := by
    by_contra hlen
    rcases h with rfl | rfl <;> by_cases h0 : len = 0 <;> simp [early, hlen, h0] at he
  rcases odd_cases op hd with h | h | h | h
  · exact .inl ⟨.inl h, groups (.inl h)⟩
  · exact .inl ⟨.inr h, groups (.inr h)⟩
  · exact .inr h
  · simp [early, h] at he

/-- A frame of a decode command takes whole groups of symbols. -/
theorem need_decode_mod {op : Opcode} {len : Nat} (hd : op[0] = true) (he : early op len = none) :
    need op len % 5 = 0 := by
  rcases decode_op_cases hd he with ⟨rfl | rfl, hlen⟩ | rfl
  · simpa [need] using hlen
  · simpa [need] using hlen
  · simp [need]

/-- The digit that a table read gives is a base-85 digit, valid or not (R53, R82). -/
theorem decLookup_digit_lt {alphabet : List Sym} (h : alphabet.length = 85) (x : Byte) :
    (decLookup alphabet x).digit.toNat < 85 := by
  have hrom (i : Nat) : (decRom alphabet i).digit.toNat < 85 := by
    unfold decRom
    split
    next d hd =>
      obtain ⟨hlt, -⟩ := List.findIdx?_eq_some_iff_getElem.mp hd
      simp only [BitVec.toNat_ofNat]
      omega
    next => simp
  simp only [decLookup]
  split
  · simp
  · split
    · simp
    · exact hrom _

/-! ### What the datapath steps leave unchanged -/

/-- `t` comes from `s` by work on the frame in progress: only counters, packer, decoder and flags are written,
and at most the five items of a group are appended to the queue. -/
structure DatapathOnly (s t : State) : Prop where
  cfg : t.cfg = s.cfg
  st : t.st = s.st
  cmdCh : t.cmdCh = s.cmdCh
  inCh : t.inCh = s.inCh
  sink : t.sink = s.sink
  oq : ∃ new : List Byte, new.length ≤ 5 ∧ t.oq = s.oq ++ new

theorem packByte_datapathOnly (b : Byte) (s : State) : DatapathOnly s (packByte b s) := by
  rcases packByte_cases s b with ⟨-, e⟩ | ⟨-, e⟩ <;> rw [e]
  · exact ⟨rfl, rfl, rfl, rfl, rfl, [], by simp, by simp⟩
  · exact ⟨rfl, rfl, rfl, rfl, rfl, _, by simp, rfl⟩

theorem groupOut_datapathOnly (w : Word) (b o : Bool) (s : State) : DatapathOnly s (groupOut w b o s) := by
  obtain ⟨items, hlen, e⟩ := groupOut_frame s w b o
  rw [e]
  exact ⟨rfl, rfl, rfl, rfl, rfl, items, by omega, rfl⟩

theorem decSym_datapathOnly (x : Byte) (s : State) : DatapathOnly s (decSym x s) := by
  by_cases h : s.decN = 4#3
  · rw [decSym_complete s x h]
    have hg := groupOut_datapathOnly
      (BitVec.ofNat 32 (accumulate s.decAcc.toNat (decLookup s.cfg.alphabet x)))
      (symBad s.decBad (decLookup s.cfg.alphabet x))
      (symOvf s.decOvf (accumulate s.decAcc.toNat (decLookup s.cfg.alphabet x)))
      { s with decAcc := 0#32, decN := 0#3, decBad := false, decOvf := false }
    exact ⟨hg.cfg, hg.st, hg.cmdCh, hg.inCh, hg.sink, hg.oq⟩
  · rw [decSym_collect s x h]
    exact ⟨rfl, rfl, rfl, rfl, rfl, [], by simp, by simp⟩

theorem prefixStep_datapathOnly (s : State) : DatapathOnly s (prefixStep s) := by
  have hp := packByte_datapathOnly (prefixByte s) { s with preN := s.preN - 1#3 }
  exact ⟨hp.cfg, hp.st, hp.cmdCh, hp.inCh, hp.sink, hp.oq⟩

/-- The three things that an IN step can do with its item (R200, R201, R203). -/
theorem inStep_cases (x : Byte) (s : State) :
    (early s.opR s.lenR ≠ none ∧ inStep x s = { s with inCnt := s.inCnt + 1 }) ∨
    (early s.opR s.lenR = none ∧ s.opR[0] = false ∧
      inStep x s = packByte x { s with inCnt := s.inCnt + 1 }) ∨
    (early s.opR s.lenR = none ∧ s.opR[0] = true ∧
      inStep x s = decSym x { s with inCnt := s.inCnt + 1 }) := by
  by_cases he : early s.opR s.lenR = none
  · cases hd : s.opR[0] with
    | false => exact .inr (.inl ⟨he, rfl, inStep_encode s x he hd⟩)
    | true => exact .inr (.inr ⟨he, rfl, inStep_decode s x he hd⟩)
  · exact .inl ⟨he, inStep_discard s x he⟩

theorem inStep_datapathOnly (x : Byte) (s : State) : DatapathOnly s (inStep x s) := by
  rcases inStep_cases x s with ⟨-, e⟩ | ⟨-, -, e⟩ | ⟨-, -, e⟩ <;> rw [e]
  · exact ⟨rfl, rfl, rfl, rfl, rfl, [], by simp, by simp⟩
  · have hp := packByte_datapathOnly x { s with inCnt := s.inCnt + 1 }
    exact ⟨hp.cfg, hp.st, hp.cmdCh, hp.inCh, hp.sink, hp.oq⟩
  · have hd := decSym_datapathOnly x { s with inCnt := s.inCnt + 1 }
    exact ⟨hd.cfg, hd.st, hd.cmdCh, hd.inCh, hd.sink, hd.oq⟩

theorem takeItem_nil {s : State} (h : s.inCh = []) : takeItem s = s := by
  simp [takeItem, h]

/-- The IN turn takes the item on the port, if there is one, and works on nothing but the frame (R199). -/
theorem takeItem_datapathOnly (s : State) : DatapathOnly { s with inCh := s.inCh.tail } (takeItem s) := by
  cases hin : s.inCh with
  | nil =>
    rw [takeItem_nil hin]
    exact ⟨rfl, rfl, rfl, hin, rfl, [], by simp, by simp⟩
  | cons x rest =>
    rw [takeItem_cons s hin]
    exact inStep_datapathOnly x { s with inCh := rest }

/-! ### RESET -/

/-- The state after reset is one that RESET leaves as it is (R39). -/
theorem resetStep_reset : resetStep State.reset = State.reset := rfl

/-- Settles O17: each register of `resetStep` by its own law. -/
theorem resetLeavesTheSpecifiedValues : Obligations.ResetLeavesTheSpecifiedValues :=
  ⟨fun s => by simp, resetStep_reset⟩

/-! ### The control state -/

/-- The two readings of the OUT step (R207). -/
theorem outStep_cases (s : State) :
    (s.oq = [] ∧ outStep s = s) ∨
    ∃ y rest, s.oq = y :: rest ∧ outStep s = { s with oq := rest, sink := s.sink ++ [.item y] } := by
  cases hq : s.oq with
  | nil => exact .inl ⟨rfl, by simp [outStep, hq]⟩
  | cons y rest => exact .inr ⟨y, rest, rfl, outStep_cons s hq⟩

theorem outStep_st (s : State) : (outStep s).st = s.st := by
  rcases outStep_cases s with ⟨-, e⟩ | ⟨y, rest, -, e⟩ <;> rw [e]

/-- Settles O20, by the kinds of step: only RESET, CMD and DONE write `st`. -/
theorem controlStateTransitions : Obligations.ControlStateTransitions := by
  refine ⟨fun s t h => ?_, fun rst s => by simp [outputPins, fatalPin]⟩
  have unchanged {u : State} (ht : turn s ≠ .reset) (hst : u.st = s.st) (e : t = passTurn u) :
      turn s ≠ .reset ∧ t.st = s.st := ⟨ht, by rw [e, passTurn_st, hst]⟩
  rcases step_cases h with ⟨ht, e⟩ | ⟨w, ws, i, ht, hst, -, -, e⟩ | ⟨ht, -, e⟩ | ⟨ht, -, e⟩ | ⟨ht, -, e⟩ |
    ⟨ht, hc, e⟩ | ⟨ht, e⟩
  · exact .inl ⟨ht, by simp [e]⟩
  · exact .inr (.inr (.inl ⟨ht, hst, by simp [e]⟩))
  · exact .inr (.inl (unchanged (by simp [ht]) (prefixStep_datapathOnly s).st e))
  · exact .inr (.inl (unchanged (by simp [ht]) (takeItem_datapathOnly s).st e))
  · exact .inr (.inl (unchanged (by simp [ht]) (outStep_st s) e))
  · obtain ⟨hbusy, -⟩ := (canDone_iff s).mp hc
    rcases doneStep_cases s with ⟨hw, ed⟩ | ⟨hw, ed⟩
    · exact .inr (.inr (.inr (.inr ⟨ht, hbusy, by simp [e, ed], hw⟩)))
    · exact .inr (.inr (.inr (.inl ⟨ht, hbusy, by simp [e, ed], hw⟩)))
  · exact .inr (.inl (unchanged ht rfl e))

/-! ### The queue and the channels -/

@[simp] theorem deliveredItems_append (ds es : List Delivery) :
    deliveredItems (ds ++ es) = deliveredItems ds ++ deliveredItems es := List.filterMap_append

@[simp] theorem deliveredItems_item (b : Byte) : deliveredItems [.item b] = [b] := rfl

@[simp] theorem deliveredItems_status (w : DoneWord) : deliveredItems [.status w] = [] := rfl

/-- The items of a state in order of production: those delivered, then those queued. -/
def itemsSoFar (s : State) : List Byte := deliveredItems s.sink ++ s.oq

/-- Work on the frame in progress only adds items at the end. -/
theorem DatapathOnly.itemsSoFar_append {s t : State} (h : DatapathOnly s t) :
    ∃ new : List Byte, new.length ≤ 5 ∧ itemsSoFar t = itemsSoFar s ++ new := by
  obtain ⟨new, hlen, e⟩ := h.oq
  exact ⟨new, hlen, by simp [itemsSoFar, h.sink, e]⟩

/-- OUT moves an item from the queue to the sink and keeps the order (R207). -/
theorem itemsSoFar_outStep (s : State) : itemsSoFar (outStep s) = itemsSoFar s := by
  rcases outStep_cases s with ⟨-, e⟩ | ⟨y, rest, hq, e⟩
  · rw [e]
  · simp [e, itemsSoFar, hq]

/-- DONE delivers a status word, which is no item (R210). -/
theorem itemsSoFar_doneStep (s : State) : itemsSoFar (doneStep s) = itemsSoFar s := by
  rcases doneStep_cases s with ⟨-, e⟩ | ⟨-, e⟩ <;> simp [e, itemsSoFar]

/-- Settles O24: PREFIX and IN append to the queue, OUT moves its head to the sink, and no other step but
RESET touches an item. -/
theorem queueKeepsItemOrder : Obligations.QueueKeepsItemOrder := by
  intro s t h hr
  have same {u : State} (hu : itemsSoFar u = itemsSoFar s) (e : t = passTurn u) :
      ∃ new : List Byte, new.length ≤ 5 ∧ itemsSoFar t = itemsSoFar s ++ new :=
    ⟨[], by simp, by rw [e, List.append_nil, ← hu]; rfl⟩
  rcases step_cases h with ⟨ht, -⟩ | ⟨w, ws, i, -, -, -, -, e⟩ | ⟨-, -, e⟩ | ⟨-, -, e⟩ | ⟨-, -, e⟩ |
    ⟨-, -, e⟩ | ⟨-, e⟩
  · exact absurd ht hr
  · exact same (u := takeCommand (cmdStep i.op i.len s)) rfl e
  · subst e
    exact (prefixStep_datapathOnly s).itemsSoFar_append
  · subst e
    exact (takeItem_datapathOnly s).itemsSoFar_append
  · exact same (itemsSoFar_outStep s) e
  · exact same (itemsSoFar_doneStep s) e
  · exact same rfl e

/-- OUT delivers at most one beat and touches no channel of the host (R207). -/
theorem outStep_channels (s : State) :
    (outStep s).cfg = s.cfg ∧ (∃ d, d.length ≤ 1 ∧ (outStep s).sink = s.sink ++ d) ∧
    (outStep s).cmdCh = s.cmdCh ∧ (outStep s).inCh = s.inCh := by
  rcases outStep_cases s with ⟨-, e⟩ | ⟨y, rest, -, e⟩ <;> rw [e]
  · exact ⟨rfl, ⟨[], by simp⟩, rfl, rfl⟩
  · exact ⟨rfl, ⟨[.item y], by simp, rfl⟩, rfl, rfl⟩

/-- DONE delivers one beat and touches no channel of the host (R210). -/
theorem doneStep_channels (s : State) :
    (doneStep s).cfg = s.cfg ∧ (∃ d, d.length ≤ 1 ∧ (doneStep s).sink = s.sink ++ d) ∧
    (doneStep s).cmdCh = s.cmdCh ∧ (doneStep s).inCh = s.inCh := by
  rcases doneStep_cases s with ⟨-, e⟩ | ⟨-, e⟩ <;> rw [e] <;>
    exact ⟨rfl, ⟨[.status (doneWord s)], by simp, rfl⟩, rfl, rfl⟩

/-- Settles O25, by the kinds of step. -/
theorem stepKeepsParametersAndDeliveries : Obligations.StepKeepsParametersAndDeliveries := by
  intro s t h
  have noBeat : ∃ d : List Delivery, d.length ≤ 1 ∧ s.sink = s.sink ++ d := ⟨[], by simp⟩
  rcases step_cases h with ⟨-, rfl⟩ | ⟨w, ws, i, -, -, -, -, rfl⟩ | ⟨-, -, rfl⟩ | ⟨-, -, rfl⟩ |
    ⟨-, -, rfl⟩ | ⟨-, -, rfl⟩ | ⟨-, rfl⟩
  · exact ⟨rfl, noBeat, .inl rfl, .inl rfl⟩
  · exact ⟨rfl, noBeat, .inr rfl, .inl rfl⟩
  · have hp := prefixStep_datapathOnly s
    exact ⟨hp.cfg, by simp [hp.sink], .inl hp.cmdCh, .inl hp.inCh⟩
  · have hi := takeItem_datapathOnly s
    exact ⟨hi.cfg, by simp [hi.sink], .inl hi.cmdCh, .inr hi.inCh⟩
  · obtain ⟨hcfg, hsink, hcmd, hin⟩ := outStep_channels s
    exact ⟨hcfg, hsink, .inl hcmd, .inl hin⟩
  · obtain ⟨hcfg, hsink, hcmd, hin⟩ := doneStep_channels s
    exact ⟨hcfg, hsink, .inl hcmd, .inl hin⟩
  · exact ⟨rfl, noBeat, .inl rfl, .inl rfl⟩

/-! ### Acceptance of a command -/

/-- CMD reads no register but the queue (R192): the rest it writes. -/
theorem cmdStep_congr {s u : State} (op : Opcode) (len : Nat) (hcfg : s.cfg = u.cfg) (hoq : s.oq = u.oq)
    (hcmd : s.cmdCh = u.cmdCh) (hin : s.inCh = u.inCh) (hsink : s.sink = u.sink)
    (hsched : s.sched = u.sched) : cmdStep op len s = cmdStep op len u := by
  simp only [cmdStep, hcfg, hoq, hcmd, hin, hsink, hsched]

/-- An idle core accepts the command on its port (R191, R192). -/
theorem step_accepts {s : State} {w : Nat} {ws : List Nat} {i : Instr} (hst : s.st = .idle)
    (ht : turn s = .cmd) (hc : s.cmdCh = w :: ws) (hd : decode s.cfg.lenw w = .ok i) :
    step s = .next (passTurn (takeCommand (cmdStep i.op i.len s))) := by
  simp [step, fetch, ht, hst, hc, hd, exec_eq_runCommand, runCommand]

/-- An idle core refuses a number that is no command word (R73). -/
theorem step_refuses {s : State} {w : Nat} {ws : List Nat} {e : DecodeError} (hst : s.st = .idle)
    (ht : turn s = .cmd) (hc : s.cmdCh = w :: ws) (hd : decode s.cfg.lenw w = .error e) :
    step s = .refused .commandTooWide := by
  simp [step, fetch, ht, hst, hc, hd]

/-- With a command on the port of an idle core the turn depends on the schedule alone. -/
theorem turn_congr_of_idle {s u : State} (hs : s.st = .idle) (hu : u.st = .idle) (hcs : s.cmdCh ≠ [])
    (hcu : u.cmdCh ≠ []) (hsched : s.sched = u.sched) : turn s = turn u := by
  simp [turn, eagerTurn, hs, hu, hcs, hcu, hsched]

/-- Settles O27: the CMD step overwrites whatever an earlier frame left. -/
theorem earlierFramesDoNotInfluenceTheNext : Obligations.EarlierFramesDoNotInfluenceTheNext := by
  intro s u w ws hcfg hs hu hqs hqu hcs hcu hin hsink hsched ht
  have htu : turn u = .cmd := by
    rw [← turn_congr_of_idle hs hu (by simp [hcs]) (by simp [hcu]) hsched, ht]
  cases hd : decode s.cfg.lenw w with
  | ok i =>
    rw [step_accepts hs ht hcs hd, step_accepts hu htu hcu (hcfg ▸ hd),
      cmdStep_congr i.op i.len hcfg (hqs.trans hqu.symm) (hcs.trans hcu.symm) hin hsink hsched]
  | error e => rw [step_refuses hs ht hcs hd, step_refuses hu htu hcu (hcfg ▸ hd)]

end Sys2Proof.Machine

/-! SUPPORT. The invariants of 10_state.md R37: each step keeps them, and so does every run and every clock edge. -/
namespace Sys2Proof.Machine

/-! ### The host's side of the channels -/

theorem Inv.passTurn {s : State} (hi : Inv s) : Inv (passTurn s) := by
  obtain ⟨legal, widths, a, b, c, d, e, f, g, h, i, j, idle⟩ := hi
  exact ⟨legal, widths, a, b, c, d, e, f, g, h, i, j, idle⟩

theorem Inv.with_inCh {s : State} (hi : Inv s) (items : List Byte) : Inv { s with inCh := items } := by
  obtain ⟨legal, widths, a, b, c, d, e, f, g, h, i, j, idle⟩ := hi
  exact ⟨legal, widths, a, b, c, d, e, f, g, h, i, j, idle⟩

theorem Inv.takeCommand {s : State} (hi : Inv s) : Inv (takeCommand s) := by
  obtain ⟨legal, ⟨hlen, hcmd⟩, a, b, c, d, e, f, g, h, i, j, idle⟩ := hi
  exact ⟨legal, ⟨hlen, fun w hw => hcmd w (List.mem_of_mem_tail hw)⟩, a, b, c, d, e, f, g, h, i, j, idle⟩

/-! ### RESET and CMD -/

/-- RESET gives the invariants, whatever the registers held (R39). -/
theorem inv_resetStep {s : State} (hlegal : s.cfg.Legal) (hcmd : ∀ w ∈ s.cmdCh, w < 2 ^ (s.cfg.lenw + 3)) :
    Inv (resetStep s) where
  legal := hlegal
  widths := ⟨Nat.two_pow_pos _, hcmd⟩
  a _ := ⟨rfl, rfl, rfl, rfl, rfl, rfl⟩
  b := by simp [PackerBounded]
  c := by simp [DecoderBounded]
  d := rfl
  e := by simp [PrefixBounded]
  f := Nat.zero_le _
  g _ _ := rfl
  h _ _ := rfl
  i := nofun
  j := Nat.zero_le _
  idle := by simp [UnusedSideIdle]

/-- The register `pre_n` holds exactly what CMD loads into it (R192). -/
theorem prefixCount_toNat (op : Opcode) (len : Nat) :
    (BitVec.ofNat 3 (prefixCount op len)).toNat = prefixCount op len := by
  have h := padLen_le len
  simp only [prefixCount, BitVec.toNat_ofNat]
  split <;> omega

theorem prefixCount_of_ne {op : Opcode} (h : op ≠ 2#3) (len : Nat) : prefixCount op len = 0 := by
  simp [prefixCount, h]

theorem prefixCount_pz85e (len : Nat) : prefixCount 2#3 len = 1 + padLen len := by
  simp [prefixCount]

/-- CMD with a length that fits gives the invariants: it writes every register but the queue, which is empty in
IDLE (R192). -/
theorem inv_cmdStep {s : State} (hi : Inv s) (hst : s.st = .idle) (op : Opcode) {len : Nat}
    (hlen : len < 2 ^ s.cfg.lenw) : Inv (cmdStep op len s) := by
  obtain ⟨hoq, -⟩ := hi.a (by simp [hst])
  have hpre := prefixCount_toNat op len
  have hpad := padLen_le len
  have no_pre (h : op ≠ 2#3) : (cmdStep op len s).preN = 0#3 := by
    rw [cmdStep_preN, prefixCount_of_ne h]
  have no_early (h : op = 2#3) : early op len = none := by rw [h, early_pz85e]
  exact {
    legal := hi.legal
    widths := ⟨hlen, hi.widths.2⟩
    a := fun h => absurd rfl h
    b := by simp [PackerBounded]
    c := by simp [DecoderBounded]
    d := rfl
    e := by
      refine ⟨?_, fun h => by_contra fun hop => h (no_pre hop)⟩
      rw [cmdStep_preN, hpre, prefixCount]
      split <;> omega
    f := Nat.zero_le _
    g := fun _ _ => by
      simp only [bytesFed, cmdStep_opR, cmdStep_lenR, cmdStep_preN, cmdStep_inCnt, cmdStep_packN, hpre]
      split
      next hop => simp [hop, prefixCount_pz85e]
      next => rfl
    h := fun _ _ => rfl
    i := nofun
    j := by simp [QueueBounded, hoq]
    idle := by
      refine ⟨fun (hop : op = 2#3) => ?_, fun _ => rfl, fun _ => ⟨rfl, rfl, rfl, rfl, rfl, rfl⟩,
        fun _ => ⟨rfl, rfl⟩, fun he => ⟨hoq, no_pre fun hop => he (no_early hop)⟩, fun _ => rfl, nofun⟩
      rw [cmdStep_preN, hpre, cmdStep_lenR, hop, prefixCount_pz85e] }

/-! ### The packer -/

/-- One more byte fed to the packer of an encode frame, by PREFIX or by IN: the counters become `n` and `p`, the
packer `acc` and `k`, the queue `q`. -/
theorem inv_fedByte {s : State} (hi : Inv s) (hbusy : s.st = .busy) (hd : s.opR[0] = false)
    (he : early s.opR s.lenR = none) {n : Nat} {p : BitVec 3} {acc : Word} {k : BitVec 2} {q : List Byte}
    (hn : n ≤ need s.opR s.lenR) (hp : p.toNat ≤ s.preN.toNat) (hpn : p ≠ 0#3 → n = 0)
    (hfed : bytesFed { s with inCnt := n, preN := p } % 4 = k.toNat)
    (hacc : acc.toNat < 256 ^ k.toNat) (hq : q.length ≤ s.cfg.oqDepth) :
    Inv { s with inCnt := n, preN := p, packAcc := acc, packN := k, oq := q } := by
  obtain ⟨hpre, honly⟩ := hi.e
  obtain ⟨hpad, -, hdec, -, -, hbad, -⟩ := hi.idle
  exact {
    legal := hi.legal
    widths := hi.widths
    a := fun h => absurd hbusy h
    b := hacc
    c := hi.c
    d := hi.d
    e := ⟨hp.trans hpre, fun h => honly (by bv_omega)⟩
    f := hn
    g := fun _ _ => hfed
    h := fun h => absurd (h.symm.trans hd) (by decide)
    i := hi.i
    j := hq
    idle := ⟨fun h => hp.trans (hpad h), hpn, hdec,
      fun h => (h.elim (fun h => absurd (h.symm.trans hd) (by decide)) (absurd he)),
      absurd he, hbad, fun h => absurd (hbusy.symm.trans h) (by decide)⟩ }

/-- One more byte in the packer's accumulator (R162). -/
theorem packer_word_lt {acc : Word} {k : Nat} (h : acc.toNat < 256 ^ k) (b : Byte) :
    (acc * 256#32 + b.zeroExtend 32).toNat < 256 ^ (k + 1) := by
  have hle : (acc * 256#32 + b.zeroExtend 32).toNat ≤ acc.toNat * 256 + b.toNat := by bv_omega
  have hb := b.isLt
  rw [Nat.pow_succ]
  omega

/-- `PackByte` keeps the invariants when the counters account for its byte (R37 (b), (g)). -/
theorem inv_packByte {s : State} (hi : Inv s) (hbusy : s.st = .busy) (hd : s.opR[0] = false)
    (he : early s.opR s.lenR = none) (hroom : s.oq.length + 5 ≤ s.cfg.oqDepth) {n : Nat} {p : BitVec 3}
    (hn : n ≤ need s.opR s.lenR) (hp : p.toNat ≤ s.preN.toNat) (hpn : p ≠ 0#3 → n = 0)
    (hfed : bytesFed { s with inCnt := n, preN := p } = bytesFed s + 1) (b : Byte) :
    Inv (packByte b { s with inCnt := n, preN := p }) := by
  have hstep := hi.g hd he
  have hacc := hi.b
  rcases packByte_cases { s with inCnt := n, preN := p } b with ⟨hk, e⟩ | ⟨hk, e⟩ <;> rw [e]
  · have hk' : (s.packN + 1#2).toNat = s.packN.toNat + 1 := by
      have : s.packN ≠ 3#2 := hk
      bv_omega
    refine inv_fedByte hi hbusy hd he hn hp hpn ?_ ?_ hi.j
    · rw [hfed, hk']
      have := (s.packN + 1#2).isLt
      omega
    · rw [hk']
      exact packer_word_lt hacc b
  · have hk' : s.packN = 3#2 := hk
    have hthree : bytesFed s % 4 = 3 := by simpa [hk'] using hstep
    have hwhole : bytesFed { s with inCnt := n, preN := p } % 4 = 0 := by omega
    exact inv_fedByte hi hbusy hd he hn hp hpn hwhole (by simp) (by simpa using hroom)

/-! ### PREFIX -/

theorem inv_prefixStep {s : State} (hi : Inv s) (hc : canPrefix s = true) : Inv (prefixStep s) := by
  obtain ⟨hbusy, hpre, hroom⟩ := (canPrefix_iff s).mp hc
  obtain ⟨-, honly⟩ := hi.e
  obtain ⟨hpad, hcnt, -⟩ := hi.idle
  have hop : s.opR = 2#3 := honly hpre
  have hdec : (s.preN - 1#3).toNat + 1 = s.preN.toNat := by bv_omega
  have hle := hpad hop
  have hfed : bytesFed { s with preN := s.preN - 1#3 } = bytesFed s + 1 := by
    simp only [bytesFed, hop, if_true]
    omega
  exact inv_packByte hi hbusy (by simp [hop]) (by simp [hop]) hroom hi.f (by omega)
    (fun _ => hcnt hpre) hfed (prefixByte s)

/-! ### The decoder -/

/-- One more symbol fed to the decoder of a decode frame: the decoder holds `k` digits in `acc`, the frame flags
and the queue are as given. -/
theorem inv_fedSymbol {s : State} (hi : Inv s) (hc : canIn s = true) (hd : s.opR[0] = true)
    (he : early s.opR s.lenR = none) {acc : Word} {k : BitVec 3} {bad badR ovfR oor fg : Bool} {q : List Byte}
    (hk : k.toNat ≤ 4) (hacc : acc.toNat < 85 ^ k.toNat) (hstep : (s.inCnt + 1) % 5 = k.toNat)
    (hbad : k = 0#3 → bad = false) (hoor : oor = true → s.opR = 3#3 ∧ fg = false)
    (hq : q.length ≤ s.cfg.oqDepth) :
    Inv { s with inCnt := s.inCnt + 1, decAcc := acc, decN := k, decBad := bad, decOvf := false,
                 badR := badR, ovfR := ovfR, oor := oor, firstGrp := fg, oq := q } := by
  obtain ⟨hbusy, hpre, hlt, -⟩ := (canIn_iff s).mp hc
  obtain ⟨hpad, -, -, hpack, -⟩ := hi.idle
  exact {
    legal := hi.legal
    widths := hi.widths
    a := fun h => absurd hbusy h
    b := hi.b
    c := ⟨hk, hacc⟩
    d := rfl
    e := hi.e
    f := hlt
    g := fun h => absurd (h.symm.trans hd) (by decide)
    h := fun _ _ => hstep
    i := hoor
    j := hq
    idle := ⟨hpad, fun h => absurd hpre h,
      fun h => (h.elim (fun h => absurd (h.symm.trans hd) (by decide)) (absurd he)),
      hpack, absurd he, hbad, fun h => absurd (hbusy.symm.trans h) (by decide)⟩ }

/-- The running value of at most five digits (R134). -/
theorem accumulate_lt {acc k : Nat} {e : DecEntry} (h : acc < 85 ^ k) (he : e.digit.toNat < 85) :
    accumulate acc e < 85 ^ (k + 1) := by
  rw [accumulate, Nat.pow_succ]
  omega

/-- A header belongs to a `PZ85D` frame (R205). -/
theorem op_of_carriesHeader {op : Opcode} {fg bad : Bool} (h : carriesHeader op fg bad = true) : op = 3#3 := by
  simp only [carriesHeader, Bool.and_eq_true, decide_eq_true_eq] at h
  obtain ⟨⟨hop, -⟩, -⟩ := h
  exact hop

/-- `DecSym` keeps the invariants: before the fifth symbol the value stays below `85^4`, so nothing overflows
(R137), and the fifth leaves the decoder empty (R138). -/
theorem inv_decSym {s : State} (hi : Inv s) (hc : canIn s = true) (hd : s.opR[0] = true)
    (he : early s.opR s.lenR = none) (x : Byte) : Inv (decSym x { s with inCnt := s.inCnt + 1 }) := by
  obtain ⟨-, -, -, hroom⟩ := (canIn_iff s).mp hc
  obtain ⟨hn, hacc⟩ := hi.c
  have hstep := hi.h hd he
  by_cases h4 : s.decN = 4#3
  · rw [decSym_complete { s with inCnt := s.inCnt + 1 } x h4]
    obtain ⟨items, hlen, e⟩ := groupOut_frame
      { s with inCnt := s.inCnt + 1, decAcc := 0#32, decN := 0#3, decBad := false, decOvf := false }
      (BitVec.ofNat 32 (accumulate s.decAcc.toNat (decLookup s.cfg.alphabet x)))
      (symBad s.decBad (decLookup s.cfg.alphabet x))
      (symOvf s.decOvf (accumulate s.decAcc.toNat (decLookup s.cfg.alphabet x)))
    rw [e]
    have hfour : s.inCnt % 5 = 4 := by simpa [h4] using hstep
    have hwhole : (s.inCnt + 1) % 5 = 0 := by omega
    refine inv_fedSymbol hi hc hd he (by simp) (by simp) hwhole (fun _ => rfl) ?_ ?_
    · intro h
      rcases Bool.or_eq_true_iff.mp h with h | h
      · exact ⟨(hi.i h).1, rfl⟩
      · exact ⟨op_of_carriesHeader (Bool.and_eq_true_iff.mp h).1, rfl⟩
    · simp only [List.length_append]
      omega
  · rw [decSym_collect { s with inCnt := s.inCnt + 1 } x h4]
    have hk : (s.decN + 1#3).toNat = s.decN.toNat + 1 := by bv_omega
    obtain ⟨-, -, hsize, -⟩ := hi.legal
    have hdigit := decLookup_digit_lt hsize x
    have hval := accumulate_lt hacc hdigit
    have hsmall : accumulate s.decAcc.toNat (decLookup s.cfg.alphabet x) < 85 ^ 4 :=
      hval.trans_le (Nat.pow_le_pow_right (by decide) (by bv_omega))
    have hovf : symOvf s.decOvf (accumulate s.decAcc.toNat (decLookup s.cfg.alphabet x)) = false := by
      simp only [symOvf, hi.d, Bool.false_or, decide_eq_false_iff_not]
      omega
    simp only [hovf]
    refine inv_fedSymbol hi hc hd he (by bv_omega) ?_ ?_ ?_ hi.i hi.j
    · rw [hk, BitVec.toNat_ofNat, Nat.mod_eq_of_lt (by omega)]
      exact hval
    · have hk4 : s.decN.toNat ≠ 4 := by bv_omega
      omega
    · intro h
      bv_omega

/-! ### IN -/

/-- An item that is discarded changes the count alone (R200). -/
theorem inv_discard {s : State} (hi : Inv s) (hc : canIn s = true) (he : early s.opR s.lenR ≠ none) :
    Inv { s with inCnt := s.inCnt + 1 } := by
  obtain ⟨hbusy, hpre, hlt, -⟩ := (canIn_iff s).mp hc
  obtain ⟨hpad, -, hrest⟩ := hi.idle
  exact {
    legal := hi.legal
    widths := hi.widths
    a := fun h => absurd hbusy h
    b := hi.b
    c := hi.c
    d := hi.d
    e := hi.e
    f := hlt
    g := fun _ h => absurd h he
    h := fun _ h => absurd h he
    i := hi.i
    j := hi.j
    idle := ⟨hpad, fun h => absurd hpre h, hrest⟩ }

theorem inv_inStep {s : State} (hi : Inv s) (hc : canIn s = true) (x : Byte) : Inv (inStep x s) := by
  obtain ⟨hbusy, hpre, hlt, hroom⟩ := (canIn_iff s).mp hc
  rcases inStep_cases x s with ⟨he, e⟩ | ⟨he, hd, e⟩ | ⟨he, hd, e⟩ <;> rw [e]
  · exact inv_discard hi hc he
  · have hfed : bytesFed { s with inCnt := s.inCnt + 1 } = bytesFed s + 1 := by
      simp only [bytesFed]
      split <;> omega
    exact inv_packByte hi hbusy hd he hroom hlt le_rfl (fun h => absurd hpre h) hfed x
  · exact inv_decSym hi hc hd he x

theorem inv_takeItem {s : State} (hi : Inv s) (hc : canIn s = true) : Inv (takeItem s) := by
  cases hin : s.inCh with
  | nil =>
    rw [takeItem_nil hin]
    exact hi
  | cons x rest =>
    rw [takeItem_cons s hin]
    exact inv_inStep (hi.with_inCh rest) hc x

/-! ### OUT -/

/-- Only a busy core has items in its queue (R37 (a)). -/
theorem Inv.busy_of_queued {s : State} (hi : Inv s) (hq : s.oq ≠ []) : s.st = .busy :=
  by_contra fun h => hq (hi.a h).1

theorem inv_outStep {s : State} (hi : Inv s) : Inv (outStep s) := by
  rcases outStep_cases s with ⟨-, e⟩ | ⟨y, rest, hq, e⟩ <;> rw [e]
  · exact hi
  · have hbusy := hi.busy_of_queued (by simp [hq])
    obtain ⟨legal, widths, -, b, c, d, e, f, g, h, i, j, hpad, hcnt, hdec, hpack, hearly, hrest⟩ := hi
    have hlen : rest.length + 1 ≤ s.cfg.oqDepth := by simpa [QueueBounded, hq] using j
    exact ⟨legal, widths, fun h => absurd hbusy h, b, c, d, e, f, g, h, i, (Nat.le_succ _).trans hlen,
      hpad, hcnt, hdec, hpack, fun he => absurd (hearly he).1 (by simp [hq]), hrest⟩

/-! ### DONE -/

/-- A frame of an encode command feeds whole words to the packer. -/
theorem bytesFed_complete {s : State} (hd : s.opR[0] = false) (he : early s.opR s.lenR = none)
    (hpre : s.preN = 0#3) (hcnt : s.inCnt = need s.opR s.lenR) : bytesFed s % 4 = 0 := by
  have hpad := padLen_completes s.lenR
  rcases encode_op_cases hd he with ⟨hop, hlen⟩ | hop | hop
  · simpa [bytesFed, hop, hcnt, need] using hlen
  · simpa [bytesFed, hop, hcnt, need, hpre] using hpad
  · simp [bytesFed, hop, hcnt, need]

/-- At the end of a frame the packer and the decoder are empty. -/
theorem Inv.datapath_empty {s : State} (hi : Inv s) (hpre : s.preN = 0#3)
    (hcnt : s.inCnt = need s.opR s.lenR) : s.packN = 0#2 ∧ s.decN = 0#3 ∧ s.decBad = false := by
  obtain ⟨-, -, hdec, hpack, -, hbad, -⟩ := hi.idle
  have hn : s.decN = 0#3 := by
    by_cases hside : s.opR[0] = false ∨ early s.opR s.lenR ≠ none
    · obtain ⟨-, hn, -⟩ := hdec hside
      exact hn
    · obtain ⟨hd, he⟩ : s.opR[0] = true ∧ early s.opR s.lenR = none := by simpa using hside
      have hh := hi.h hd he
      rw [hcnt, need_decode_mod hd he] at hh
      exact BitVec.eq_of_toNat_eq hh.symm
  have hp : s.packN = 0#2 := by
    by_cases hside : s.opR[0] = true ∨ early s.opR s.lenR ≠ none
    · obtain ⟨-, hp⟩ := hpack hside
      exact hp
    · obtain ⟨hd, he⟩ : s.opR[0] = false ∧ early s.opR s.lenR = none := by simpa using hside
      have hg := hi.g hd he
      rw [bytesFed_complete hd he hpre hcnt] at hg
      exact BitVec.eq_of_toNat_eq hg.symm
  exact ⟨hp, hn, hbad hn⟩

/-- When DONE reports `OUT_OF_RANGE` (R210, R238). -/
theorem doneWord_outOfRange_iff (s : State) : (doneWord s).status = .outOfRange ↔
    early s.opR s.lenR = none ∧ s.badR = false ∧ s.oor = true := by
  have hne := early_ne_outOfRange s.opR s.lenR
  cases he : early s.opR s.lenR with
  | some e => simpa [doneWord, doneStatus, he] using hne
  | none => cases hb : s.badR <;> cases ho : s.oor <;> simp [doneWord, doneStatus, he, hb, ho]

/-- The invariants outlast the end of a frame: only `st` and the sink change. -/
theorem inv_frameOver {s : State} (hi : Inv s) (hc : canDone s = true) {c : Ctrl} {ds : List Delivery}
    (hhalt : c = .halt → s.opR = 3#3 ∧ s.oor = true ∧ s.badR = false) :
    Inv { s with sink := ds, st := c } := by
  obtain ⟨-, hpre, hcnt, hoq⟩ := (canDone_iff s).mp hc
  obtain ⟨hp, hn, hbad⟩ := hi.datapath_empty hpre hcnt
  obtain ⟨legal, widths, -, b, c, d, e, f, g, h, i, j, hpad, hone, hdec, hpack, hearly, hdb, -⟩ := hi
  exact ⟨legal, widths, fun _ => ⟨hoq, hpre, hp, hn, hbad, d⟩, b, c, d, e, f, g, h, i, j,
    hpad, hone, hdec, hpack, hearly, hdb, hhalt⟩

theorem inv_doneStep {s : State} (hi : Inv s) (hc : canDone s = true) : Inv (doneStep s) := by
  rcases doneStep_cases s with ⟨hw, e⟩ | ⟨-, e⟩ <;> rw [e]
  · obtain ⟨-, hbad, hoor⟩ := (doneWord_outOfRange_iff s).mp hw
    exact inv_frameOver hi hc fun _ => ⟨(hi.i hoor).1, hoor, hbad⟩
  · exact inv_frameOver hi hc nofun

/-! ### Every step and every run -/

/-- The parameters of R6's defaults are legal. -/
theorem default_legal : Config.default.Legal := by decide +kernel

/-- Settles O28 by the RESET lemma: the initial state is its own RESET. -/
theorem invariantsHoldAtReset : Obligations.InvariantsHoldAtReset :=
  ⟨resetStep_reset ▸ inv_resetStep default_legal nofun, fun _ => inv_resetStep⟩

/-- A command word that decodes has a length that fits (R70). -/
theorem decode_len_lt {lenw w : Nat} {i : Instr} (h : decode lenw w = .ok i) : i.len < 2 ^ lenw := by
  unfold decode at h
  split at h
  next hw =>
    cases h
    obtain ⟨-, hlen⟩ := instrOf_op_len (opField w) (lenField w)
    rw [hlen, lenField]
    rw [Nat.pow_add] at hw
    omega
  next => cases h

/-- Settles O29, by the kinds of step. -/
theorem stepKeepsTheInvariants : Obligations.StepKeepsTheInvariants := by
  intro s t hi h
  rcases step_cases h with ⟨-, rfl⟩ | ⟨w, ws, i, -, hst, -, hd, rfl⟩ | ⟨-, hc, rfl⟩ | ⟨-, hc, rfl⟩ |
    ⟨-, -, rfl⟩ | ⟨-, hc, rfl⟩ | ⟨-, rfl⟩
  · exact (inv_resetStep hi.legal hi.widths.2).passTurn
  · exact (inv_cmdStep hi hst i.op (decode_len_lt hd)).takeCommand.passTurn
  · exact (inv_prefixStep hi hc).passTurn
  · exact (inv_takeItem hi hc).passTurn
  · exact (inv_outStep hi).passTurn
  · exact (inv_doneStep hi hc).passTurn
  · exact hi.passTurn

/-- A run of one more step is a step and then the run. -/
theorem runs_succ {s t : State} {k : Nat} (h : runs (k + 1) s = .next t) :
    ∃ u, step s = .next u ∧ runs k u = .next t := by
  cases hs : step s with
  | next u => exact ⟨u, rfl, by simpa [runs, Host.Core.run, core, hs] using h⟩
  | fault r => exact nomatch r
  | refused r => simp [runs, Host.Core.run, core, hs] at h

/-- What every step keeps holds at the end of every run. -/
theorem runs_keeps {P : State → Prop} (hstep : ∀ s t, P s → step s = .next t → P t) {s t : State} {k : Nat}
    (hs : P s) (h : runs k s = .next t) : P t := by
  induction k generalizing s with
  | zero =>
    obtain rfl : s = t := Host.Outcome.next.inj h
    exact hs
  | succ k ih =>
    obtain ⟨u, hu, hrun⟩ := runs_succ h
    exact ih (hstep s u hs hu) hrun

/-- Settles O30: the invariants hold after RESET and every step keeps them. -/
theorem reachableStatesSatisfyTheInvariants : Obligations.ReachableStatesSatisfyTheInvariants := by
  intro s t k hlegal hcmd h
  obtain ⟨-, -, a, b, c, d, e, f, g, hh, i, j, -⟩ :=
    runs_keeps stepKeepsTheInvariants (inv_resetStep hlegal hcmd) h
  exact ⟨a, b, c, d, e, f, g, hh, i, j⟩

/-! ### The clock edge -/

/-- An OUT beat leaves PREFIX enabled (R214). -/
theorem canPrefix_outStep {s : State} (h : canPrefix s = true) : canPrefix (outStep s) = true := by
  rcases outStep_cases s with ⟨-, e⟩ | ⟨y, rest, hq, e⟩ <;> rw [e]
  · exact h
  · obtain ⟨hbusy, hpre, hroom⟩ := (canPrefix_iff s).mp h
    rw [hq, List.length_cons] at hroom
    exact (canPrefix_iff _).mpr ⟨hbusy, hpre, by dsimp only; omega⟩

/-- An OUT beat leaves IN enabled (R214). -/
theorem canIn_outStep {s : State} (h : canIn s = true) : canIn (outStep s) = true := by
  rcases outStep_cases s with ⟨-, e⟩ | ⟨y, rest, hq, e⟩ <;> rw [e]
  · exact h
  · obtain ⟨hbusy, hpre, hlt, hroom⟩ := (canIn_iff s).mp h
    rw [hq, List.length_cons] at hroom
    exact (canIn_iff _).mpr ⟨hbusy, hpre, hlt, by dsimp only; omega⟩

/-- What OUT keeps, the OUT beat of a clock cycle keeps, whether it happens or not. -/
theorem outBeat_keeps {P : State → Prop} (hout : ∀ s, P s → P (outStep s)) {s : State} (hs : P s)
    (p : InputPins s.cfg.lenw) : P (outBeat s p) := by
  rcases outBeat_cases s p with ⟨-, -, -, e⟩ | e <;> rw [e]
  · exact hout s hs
  · exact hs

theorem outBeat_of_empty {s : State} (hq : s.oq = []) (p : InputPins s.cfg.lenw) : outBeat s p = s := by
  rcases outBeat_cases s p with ⟨hc, -⟩ | e
  · exact absurd hq ((canOut_iff s).mp hc)
  · exact e

/-- Settles O52: the OUT beat keeps the invariants and leaves PREFIX and IN enabled; CMD and DONE exclude it. -/
theorem clockEdgeKeepsTheInvariants : Obligations.ClockEdgeKeepsTheInvariants := by
  intro s p hi
  have hout : Inv (outBeat s p) := outBeat_keeps (P := Inv) (fun _ => inv_outStep) hi p
  rcases clockEdge_cases s p with
    ⟨-, e⟩ | ⟨-, ⟨hc, -, e⟩ | ⟨hc, e⟩ | ⟨hc, -, e⟩ | ⟨hc, -, e⟩ | e⟩ <;> rw [e]
  · exact inv_resetStep hi.legal hi.widths.2
  · have hst := (canCmd_iff s).mp hc
    obtain ⟨hoq, -⟩ := hi.a (by simp [hst])
    rw [outBeat_of_empty hoq]
    exact inv_cmdStep hi hst p.cmdOp p.cmdLen.isLt
  · exact inv_prefixStep hout (outBeat_keeps (P := (canPrefix · = true)) (fun _ => canPrefix_outStep) hc p)
  · exact inv_inStep hout (outBeat_keeps (P := (canIn · = true)) (fun _ => canIn_outStep) hc p) p.inData
  · obtain ⟨-, -, -, hoq⟩ := (canDone_iff s).mp hc
    rw [outBeat_of_empty hoq]
    exact inv_doneStep hi hc
  · exact hout

end Sys2Proof.Machine

/-! SUPPORT. Bytes, words and table reads (20_memory.md R52 to R54), and what a delivered status says of the
frame before it (R60, R61). -/
namespace Sys2Proof.Machine

/-! ### The status of a frame -/

/-- Work on the frame in progress delivers nothing. -/
theorem DatapathOnly.no_delivery {s t : State} (h : DatapathOnly s t) (d : Delivery) :
    t.sink ≠ s.sink ++ [d] := by
  simp [h.sink]

/-- OUT delivers items only (R207). -/
theorem outStep_no_status (s : State) (d : DoneWord) : (outStep s).sink ≠ s.sink ++ [.status d] := by
  rcases outStep_cases s with ⟨-, e⟩ | ⟨y, rest, -, e⟩ <;> simp [e]

/-- DONE delivers the status word of R210. -/
theorem doneStep_sink (s : State) : (doneStep s).sink = s.sink ++ [.status (doneWord s)] := by
  rcases doneStep_cases s with ⟨-, e⟩ | ⟨-, e⟩ <;> rw [e]

/-- DONE ends the frame (R210). -/
theorem doneStep_not_busy (s : State) : (doneStep s).st ≠ .busy := by
  rcases doneStep_cases s with ⟨-, e⟩ | ⟨-, e⟩ <;> simp [e]

/-- A status is delivered by an enabled DONE step and by no other step (R209, R210). -/
theorem step_delivers_status {s t : State} {d : DoneWord} (h : step s = .next t)
    (hd : t.sink = s.sink ++ [.status d]) : canDone s = true ∧ t = passTurn (doneStep s) := by
  rcases step_cases h with ⟨-, rfl⟩ | ⟨w, ws, i, -, -, -, -, rfl⟩ | ⟨-, -, rfl⟩ | ⟨-, -, rfl⟩ |
    ⟨-, -, rfl⟩ | ⟨-, hc, rfl⟩ | ⟨-, rfl⟩
  · simp at hd
  · simp at hd
  · exact absurd hd ((prefixStep_datapathOnly s).no_delivery _)
  · exact absurd hd ((takeItem_datapathOnly s).no_delivery _)
  · exact absurd hd (outStep_no_status s d)
  · exact ⟨hc, rfl⟩
  · simp at hd

/-- Settles O26: only DONE delivers a status, and it waits until the frame is consumed and the queue empty. -/
theorem statusComesAfterAllItems : Obligations.StatusComesAfterAllItems := by
  intro s t d h hd
  obtain ⟨hc, rfl⟩ := step_delivers_status h hd
  obtain ⟨hbusy, hpre, hcnt, hoq⟩ := (canDone_iff s).mp hc
  have hword : d = doneWord s := by
    rw [passTurn_sink, doneStep_sink] at hd
    simpa using hd.symm
  exact ⟨hbusy, hpre, hcnt, hoq, hword, doneStep_not_busy s⟩

/-! ### The table reads -/

/-- A symbol's item has the symbol's code (R75). -/
@[simp] theorem symItem_toNat (c : Sym) : (symItem c).toNat = c.toNat := by
  simp only [symItem, BitVec.truncate_eq_setWidth, BitVec.toNat_setWidth]
  omega

/-- Different symbols have different items (R75). -/
theorem symItem_injective : Function.Injective symItem := fun a b h =>
  BitVec.eq_of_toNat_eq (by rw [← symItem_toNat a, h, symItem_toNat])

/-- `EncRom` of a digit within the table (R52). -/
theorem encRom_eq_getElem {alphabet : List Sym} {d : Digit} (h : d.toNat < alphabet.length) :
    encRom alphabet d = alphabet[d.toNat] := by
  simp [encRom, h]

/-- The two kinds of `DecRom` entry: the digit of the slot's code, or an unused slot (R82). -/
theorem decRom_cases (alphabet : List Sym) (i : Nat) :
    (∃ (d : Nat) (hd : d < alphabet.length), alphabet[d].toNat = i + 32 ∧
      decRom alphabet i = { valid := true, digit := BitVec.ofNat 7 d }) ∨
    ((∀ c ∈ alphabet, c.toNat ≠ i + 32) ∧ decRom alphabet i = { valid := false, digit := 0#7 }) := by
  cases hf : alphabet.findIdx? (fun c => c.toNat == i + 32) with
  | some d =>
    obtain ⟨hd, hcode, -⟩ := List.findIdx?_eq_some_iff_getElem.mp hf
    exact .inl ⟨d, hd, by simpa using hcode, by simp [decRom, hf]⟩
  | none => exact .inr ⟨by simpa using List.findIdx?_eq_none_iff.mp hf, by simp [decRom, hf]⟩

/-- The two kinds of table read: an item outside the table is invalid, every other one reads its slot (R53). -/
theorem decLookup_cases (alphabet : List Sym) (x : Byte) :
    ((x.toNat < 32 ∨ 126 < x.toNat) ∧ decLookup alphabet x = { valid := false, digit := 0#7 }) ∨
    (32 ≤ x.toNat ∧ x.toNat ≤ 126 ∧ decLookup alphabet x = decRom alphabet (x.toNat - 32)) := by
  cases hm : x.msb with
  | true =>
    have hbig : 2 ^ 7 ≤ x.toNat := by simpa [BitVec.msb_eq_decide] using hm
    exact .inl ⟨by omega, by simp [decLookup, hm]⟩
  | false =>
    have hsmall : x.toNat < 2 ^ 7 := by simpa [BitVec.msb_eq_decide] using hm
    have hcode : (x.extractLsb' 0 7).toNat = x.toNat := by
      simpa [BitVec.extractLsb'_toNat] using Nat.mod_eq_of_lt hsmall
    by_cases hout : x.toNat < 32 ∨ 126 < x.toNat
    · exact .inl ⟨hout, by simp [decLookup, hm, hcode, hout]⟩
    · exact .inr ⟨by omega, by omega, by simp [decLookup, hm, hcode, hout]⟩

/-- With every symbol in the printable range, a read is valid exactly on the items of the alphabet's symbols and
then gives the digit of one (R53, R82). -/
theorem decLookup_spec {alphabet : List Sym} (hrange : ∀ c ∈ alphabet, 32 ≤ c.toNat ∧ c.toNat ≤ 126)
    (x : Byte) :
    (∃ (d : Nat) (hd : d < alphabet.length), x = symItem alphabet[d] ∧
      decLookup alphabet x = { valid := true, digit := BitVec.ofNat 7 d }) ∨
    ((∀ c ∈ alphabet, x ≠ symItem c) ∧ decLookup alphabet x = { valid := false, digit := 0#7 }) := by
  rcases decLookup_cases alphabet x with ⟨hout, e⟩ | ⟨hlo, -, e⟩
  · refine .inr ⟨fun c hc hx => ?_, e⟩
    have hcode := hrange c hc
    rw [hx, symItem_toNat] at hout
    omega
  · rcases decRom_cases alphabet (x.toNat - 32) with ⟨d, hd, hcode, er⟩ | ⟨hnone, er⟩
    · refine .inl ⟨d, hd, BitVec.eq_of_toNat_eq ?_, e.trans er⟩
      rw [symItem_toNat]
      omega
    · refine .inr ⟨fun c hc hx => hnone c hc ?_, e.trans er⟩
      rw [← symItem_toNat, ← hx]
      omega

/-- `DecLookup` undoes `EncRom` on the digits of a table without repetitions (R52, R53). -/
theorem decLookup_encRom {alphabet : List Sym} (hnodup : alphabet.Nodup)
    (hrange : ∀ c ∈ alphabet, 32 ≤ c.toNat ∧ c.toNat ≤ 126) {d : Digit} (hd : d.toNat < alphabet.length) :
    decLookup alphabet (symItem (encRom alphabet d)) = { valid := true, digit := d } := by
  rw [encRom_eq_getElem hd]
  rcases decLookup_spec hrange (symItem alphabet[d.toNat]) with ⟨d', hd', hx, e⟩ | ⟨hnone, -⟩
  · obtain rfl : d.toNat = d' := hnodup.getElem_inj_iff.mp (symItem_injective hx)
    rw [e, BitVec.ofNat_toNat, BitVec.setWidth_eq]
  · exact absurd rfl (hnone _ (List.getElem_mem hd))

/-- `EncRom` undoes a valid read (R52, R53). -/
theorem symItem_encRom_decLookup {alphabet : List Sym} (hlen : alphabet.length = 85)
    (hrange : ∀ c ∈ alphabet, 32 ≤ c.toNat ∧ c.toNat ≤ 126) {x : Byte}
    (hv : (decLookup alphabet x).valid = true) :
    symItem (encRom alphabet (decLookup alphabet x).digit) = x := by
  rcases decLookup_spec hrange x with ⟨d, hd, hx, e⟩ | ⟨-, e⟩
  · have hd7 : (BitVec.ofNat 7 d).toNat = d := by
      rw [BitVec.toNat_ofNat]
      omega
    rw [e, encRom_eq_getElem (hd7.symm ▸ hd), hx]
    simp only [hd7]
  · simp [e] at hv

/-- An item outside the table is invalid for any alphabet (R53). -/
theorem decLookup_out_of_table (alphabet : List Sym) {x : Byte} (hx : x.toNat < 32 ∨ 126 < x.toNat) :
    (decLookup alphabet x).valid = false := by
  rcases decLookup_cases alphabet x with ⟨-, e⟩ | ⟨hlo, hhi, -⟩
  · rw [e]
  · omega

/-- Settles O34: the reads undo each other because the symbols are distinct and within the table. -/
theorem tableReadsInvertEachOther : Obligations.TableReadsInvertEachOther := by
  intro c ⟨_, _, hlen, hnodup, hrange, _⟩
  refine ⟨fun d hd => decLookup_encRom hnodup hrange (by omega), fun x hv => ?_, fun x hv => ?_,
    fun x => decLookup_out_of_table c.alphabet⟩
  · exact ⟨decLookup_digit_lt hlen x, (symItem_encRom_decLookup hlen hrange hv).symm⟩
  · rcases decLookup_spec hrange x with ⟨d, -, -, e⟩ | ⟨-, e⟩
    · simp [e] at hv
    · rw [e]

/-! ### Words and bytes -/

/-- `Word` is big-endian (R54). -/
theorem wordOf_toNat (b0 b1 b2 b3 : Byte) : (wordOf b0 b1 b2 b3).toNat =
    b0.toNat * 2 ^ 24 + b1.toNat * 2 ^ 16 + b2.toNat * 2 ^ 8 + b3.toNat := by
  have append_byte (n : Nat) (a : BitVec n) (b : Byte) : (a ++ b).toNat = a.toNat * 2 ^ 8 + b.toNat := by
    rw [BitVec.toNat_append, ← Nat.shiftLeft_add_eq_or_of_lt b.isLt, Nat.shiftLeft_eq]
  simp only [wordOf, append_byte]
  omega

/-- `Bytes` takes the most significant byte first (R54). -/
theorem bytesOf_toNat (w : Word) : (bytesOf w).map BitVec.toNat =
    [w.toNat / 2 ^ 24 % 256, w.toNat / 2 ^ 16 % 256, w.toNat / 2 ^ 8 % 256, w.toNat % 256] := by
  simp [bytesOf, BitVec.extractLsb'_toNat, Nat.shiftRight_eq_div_pow]

/-- `Bytes` undoes `Word` (R54). -/
theorem bytesOf_wordOf (b0 b1 b2 b3 : Byte) : bytesOf (wordOf b0 b1 b2 b3) = [b0, b1, b2, b3] := by
  apply List.map_injective_iff.mpr (fun _ _ => BitVec.eq_of_toNat_eq)
  simp only [bytesOf_toNat, wordOf_toNat, List.map_cons, List.map_nil, List.cons.injEq, and_true]
  omega

/-- `Word` undoes `Bytes` (R54). -/
theorem wordOf_of_bytesOf {w : Word} {b0 b1 b2 b3 : Byte} (h : bytesOf w = [b0, b1, b2, b3]) :
    wordOf b0 b1 b2 b3 = w := by
  have hbytes := bytesOf_toNat w
  simp only [h, List.map_cons, List.map_nil, List.cons.injEq, and_true] at hbytes
  apply BitVec.eq_of_toNat_eq
  rw [wordOf_toNat]
  omega

/-- Settles O31: both directions compare the base-256 digits of the numbers. -/
theorem wordsAndBytesAreBigEndian : Obligations.WordsAndBytesAreBigEndian :=
  ⟨fun b0 b1 b2 b3 => ⟨wordOf_toNat b0 b1 b2 b3, bytesOf_wordOf b0 b1 b2 b3⟩,
    fun w => ⟨bytesOf_toNat w, fun _ _ _ _ => wordOf_of_bytesOf⟩⟩

end Sys2Proof.Machine

/-! SUPPORT. Command words and status words (30_encoding.md R70 to R76): what decodes, and the codes of the
status table. -/
namespace Sys2Proof

/-! ### The command word -/

/-- A command is the row of the opcode map with its opcode and its length (R72). -/
theorem instrOf_eq_self (i : Instr) : instrOf i.op i.len = i := by
  cases i <;> simp [instrOf, Instr.op, Instr.len]

theorem opField_toNat (w : Nat) : (opField w).toNat = w % 8 := BitVec.toNat_ofNat w 3

/-- The opcode field of a command's word is its opcode (R70). -/
theorem opField_encode (i : Instr) : opField (encode i) = i.op := by
  obtain ⟨hop, -⟩ := Laws.WordFields.of_op_width i
  exact BitVec.eq_of_toNat_eq ((opField_toNat _).trans hop)

/-- The length field of a command's word is its length (R70). -/
theorem lenField_encode (i : Instr) : lenField (encode i) = i.len :=
  (Laws.WordFields.of_op_width i).2

/-- The two fields of a number make it up again (R70). -/
theorem encode_instrOf_fields (w : Nat) : encode (instrOf (opField w) (lenField w)) = w := by
  obtain ⟨hop, hlen⟩ := Machine.instrOf_op_len (opField w) (lenField w)
  rw [encode, hop, hlen, opField_toNat, lenField]
  omega

/-- A command's word fits `LENW + 3` bits exactly when its length fits `LENW` bits (R70, R73). -/
theorem encode_lt_iff (lenw : Nat) (i : Instr) : encode i < 2 ^ (lenw + 3) ↔ i.len < 2 ^ lenw := by
  have hop : i.op.toNat < 8 := i.op.isLt
  rw [encode, Nat.pow_add]
  omega

theorem decode_eq_ok_iff {lenw w : Nat} {i : Instr} :
    decode lenw w = .ok i ↔ w < 2 ^ (lenw + 3) ∧ instrOf (opField w) (lenField w) = i := by
  by_cases hw : w < 2 ^ (lenw + 3) <;> simp [decode, hw]

theorem decode_eq_error_iff {lenw w : Nat} :
    decode lenw w = .error .commandTooWide ↔ 2 ^ (lenw + 3) ≤ w := by
  by_cases hw : w < 2 ^ (lenw + 3)
  · simp [decode, hw]
  · simp [decode, hw, Nat.le_of_not_lt hw]

theorem wellFormed_iff {lenw : Nat} {i : Instr} : i.wellFormed lenw = true ↔ i.len < 2 ^ lenw :=
  decide_eq_true_iff

/-- Decode undoes encode on every command that fits (R70, R72, R73). -/
theorem decode_encode {lenw : Nat} {i : Instr} (h : i.len < 2 ^ lenw) : decode lenw (encode i) = .ok i :=
  decode_eq_ok_iff.mpr ⟨(encode_lt_iff lenw i).mpr h, by
    rw [opField_encode, lenField_encode, instrOf_eq_self]⟩

/-- Encode undoes decode on every number that decodes (R70, R72). -/
theorem encode_of_decode {lenw w : Nat} {i : Instr} (h : decode lenw w = .ok i) : encode i = w := by
  obtain ⟨-, rfl⟩ := decode_eq_ok_iff.mp h
  exact encode_instrOf_fields w

/-- Settles O1: the two fields of a word determine it and are determined by it. -/
theorem commandWordsDecodeAndEncodeAgree : Obligations.CommandWordsDecodeAndEncodeAgree := by
  refine fun lenw => ⟨fun i hi => ?_, fun w i hd => ?_, fun w => decode_eq_error_iff⟩
  · have hlen := wellFormed_iff.mp hi
    exact ⟨decode_encode hlen, (encode_lt_iff lenw i).mpr hlen⟩
  · exact ⟨wellFormed_iff.mpr (Machine.decode_len_lt hd), encode_of_decode hd⟩

/-- Settles O2: each word of the table is the word of its command, and the last has a 20th bit. -/
theorem tableWordsDecodeToTheirCommands : Obligations.TableWordsDecodeToTheirCommands := by
  have row (i : Instr) (w : Nat) (hw : encode i = w) (hlen : i.len < 2 ^ 16) : decode 16 w = .ok i :=
    hw ▸ decode_encode hlen
  exact ⟨row (.z85e 8) _ rfl (by decide), row (.z85d 10) _ rfl (by decide), row (.pz85e 1) _ rfl (by decide),
    row (.pz85d 5) _ rfl (by decide), row (.encg 7) _ rfl (by decide), row (.decg 3) _ rfl (by decide),
    row (.op6 65535) _ rfl (by decide), row (.op7 9) _ rfl (by decide),
    decode_eq_error_iff.mpr (by decide)⟩

namespace Machine

/-! ### The status word -/

/-- The statuses in the order of their codes (R76). -/
def statusTable : List Status := [.ok, .invalidLength, .emptyInput, .badSymbol, .illegalOp, .outOfRange]

/-- A status stands in the table at its code. -/
theorem statusTable_code (x : Status) : statusTable[x.code.toNat]? = some x := by
  cases x <;> rfl

/-- Codes 6 and 7 are past the end of the table (R76). -/
theorem code_lt_six (x : Status) : x.code.toNat < 6 :=
  (List.getElem?_eq_some_iff.mp (statusTable_code x)).1

/-- A code stands for one status (R76). -/
theorem code_injective {x y : Status} (h : x.code = y.code) : x = y := by
  have hx := statusTable_code x
  rw [h, statusTable_code y] at hx
  exact (Option.some.inj hx).symm

/-- `done_ovf` is bit 3 of the status word (R76). -/
theorem doneWord_bits_toNat (d : DoneWord) :
    d.bits.toNat = d.status.code.toNat + (if d.ovf then 8 else 0) := by
  rw [DoneWord.bits, BitVec.toNat_append, ← Nat.shiftLeft_add_eq_or_of_lt d.status.code.isLt,
    Nat.shiftLeft_eq]
  cases d.ovf <;> simp [Nat.add_comm]

/-- Settles O3: the status table has six entries, read by the code. -/
theorem statusWordHasTheTableCodes : Obligations.StatusWordHasTheTableCodes := by
  refine ⟨doneWord_bits_toNat, rfl, rfl, rfl, rfl, rfl, rfl, fun x => ?_, fun x y => code_injective⟩
  have hx := code_lt_six x
  exact ⟨fun h => by simp [h] at hx, fun h => by simp [h] at hx⟩

end Machine

end Sys2Proof

/-! SUPPORT. Whole commands and whole clock cycles from single steps: a reserved opcode (30_encoding.md R84), OUT
beside IN and PREFIX (43_core_control.md R214), and the command channel's beat (30_encoding.md R78). -/
namespace Sys2Proof.Machine

/-! ### A reserved opcode -/

/-- A step that answers is the first of a run. -/
theorem runs_of_step {s u : State} (h : step s = .next u) (k : Nat) : runs (k + 1) s = runs k u := by
  simp [runs, Host.Core.run, core, h]

/-- When DONE is enabled, the eager order has nothing else to take. -/
theorem eagerTurn_of_canDone {s : State} (h : canDone s = true) : eagerTurn s = .done := by
  obtain ⟨hbusy, hpre, hcnt, hoq⟩ := (canDone_iff s).mp h
  have hcmd : canCmd s = false := by simp [canCmd, hbusy]
  have hpfx : canPrefix s = false := by simp [canPrefix, hpre]
  have hin : canIn s = false := by simp [canIn, hcnt]
  have hout : canOut s = false := by simp [canOut, hoq]
  simp [eagerTurn, hcmd, hpfx, hin, hout, h]

/-- An enabled DONE turn ends the frame in the registers (R209, R210). -/
theorem step_done {s : State} (ht : turn s = .done) (hc : canDone s = true) :
    step s = .next (passTurn (doneStep s)) := by
  simp [step, fetch, ht, exec_eq_runCommand, instrOf_op_len, runCommand, workStep, hc]

/-- What a frame of a reserved opcode is (R24, R84): no items, nothing to insert, and a failure known at once. -/
theorem reserved_operands {op : Opcode} (h : op = 6#3 ∨ op = 7#3) (len : Nat) :
    need op len = 0 ∧ prefixCount op len = 0 ∧ early op len = some .illegalOp := by
  rcases h with rfl | rfl <;> simp [need, prefixCount, early]

/-- An early failure is the status of its frame (R210, R238). -/
theorem doneWord_of_early {s : State} {e : Status} (h : early s.opR s.lenR = some e) :
    doneWord s = { status := e, ovf := s.ovfR } := by
  simp [doneWord, doneStatus, h]

/-- DONE goes back to IDLE unless the status is OUT_OF_RANGE (R210). -/
theorem doneStep_of_ne {s : State} (h : (doneWord s).status ≠ .outOfRange) :
    doneStep s = { s with sink := s.sink ++ [.status (doneWord s)], st := .idle } := by
  rcases doneStep_cases s with ⟨hw, -⟩ | ⟨-, e⟩
  · exact absurd hw h
  · exact e

/-- Settles O16: the CMD step leaves a frame with nothing to take or to insert, so that DONE is enabled at once and
reports the early failure. -/
theorem reservedOpcodeEndsInIllegalOp : Obligations.ReservedOpcodeEndsInIllegalOp := by
  intro i s len ws hi hwf hst hoq hsched hcmd
  have hop : i.op = 6#3 ∨ i.op = 7#3 := by
    rcases hi with rfl | rfl
    · exact .inl rfl
    · exact .inr rfl
  obtain ⟨hneed, hpre, hearly⟩ := reserved_operands hop i.len
  have ht : turn s = .cmd := by
    rw [turn_of_nil s hsched]
    simp [eagerTurn, hst, hcmd]
  have haccept := step_accepts hst ht hcmd (decode_encode (wellFormed_iff.mp hwf))
  generalize hu : passTurn (takeCommand (cmdStep i.op i.len s)) = u at haccept
  have hdone : canDone u = true := by
    rw [canDone_iff, ← hu]
    simp [hpre, hneed, hoq]
  have hword : doneWord u = { status := .illegalOp, ovf := false } := by
    rw [doneWord_of_early (e := .illegalOp) (by simpa [← hu] using hearly)]
    simp [← hu]
  have hfinish : step u = .next (passTurn (doneStep u)) :=
    step_done (by rw [turn_of_nil u (by simp [← hu, hsched]), eagerTurn_of_canDone hdone]) hdone
  refine ⟨passTurn (doneStep u), by rw [runs_of_step haccept, runs_of_step hfinish]; rfl, ?_⟩
  rw [doneStep_of_ne (by simp [hword]), hword, ← hu]
  simp [hcmd, hoq]

/-! ### OUT beside the steps that fill the queue (R214)

OUT takes the head of the queue, the others append at its end and read neither the queue nor the sink. -/

/-- OUT as one update of the two fields that it writes, with nothing delivered from an empty queue (R207). -/
theorem outStep_eq (s : State) :
    outStep s = { s with oq := s.oq.tail, sink := s.sink ++ (s.oq.head?.map Delivery.item).toList } := by
  rcases outStep_cases s with ⟨hq, e⟩ | ⟨y, rest, hq, e⟩
  · have htail : s.oq.tail = s.oq := by simp [hq]
    have hhead : (s.oq.head?.map Delivery.item).toList = [] := by simp [hq]
    rw [e, htail, hhead, List.append_nil]
  · simp [e, hq]

theorem outStep_packByte {s : State} (hq : s.oq ≠ []) (b : Byte) :
    outStep (packByte b s) = packByte b (outStep s) := by
  obtain ⟨y, rest, hq⟩ := List.exists_cons_of_ne_nil hq
  by_cases hn : s.packN = 3#2 <;> simp [packByte, hn, enqueue, outStep_eq, hq]

theorem outStep_groupOut {s : State} (hq : s.oq ≠ []) (w : Word) (b o : Bool) :
    outStep (groupOut w b o s) = groupOut w b o (outStep s) := by
  obtain ⟨y, rest, hq⟩ := List.exists_cons_of_ne_nil hq
  simp [groupOut, enqueue, outStep_eq, hq]

theorem outStep_decSym {s : State} (hq : s.oq ≠ []) (x : Byte) :
    outStep (decSym x s) = decSym x (outStep s) := by
  by_cases hn : s.decN = 4#3
  · have hgroup := outStep_groupOut
      (s := { s with decAcc := 0#32, decN := 0#3, decBad := false, decOvf := false }) hq
    rw [decSym_complete s x hn, hgroup, decSym_complete (outStep s) x (by simpa [outStep_eq] using hn)]
    simp only [outStep_eq]
  · rw [decSym_collect s x hn, decSym_collect (outStep s) x (by simpa [outStep_eq] using hn)]
    simp only [outStep_eq]

/-- OUT commutes with PREFIX (R214). -/
theorem outStep_prefixStep {s : State} (hq : s.oq ≠ []) :
    outStep (prefixStep s) = prefixStep (outStep s) := by
  have hpack := outStep_packByte (s := { s with preN := s.preN - 1#3 }) hq
  rw [prefixStep, hpack, prefixStep]
  simp only [outStep_eq, prefixByte]

/-- OUT commutes with IN (R214). -/
theorem outStep_inStep {s : State} (hq : s.oq ≠ []) (x : Byte) :
    outStep (inStep x s) = inStep x (outStep s) := by
  have hcount : outStep { s with inCnt := s.inCnt + 1 } = { outStep s with inCnt := (outStep s).inCnt + 1 } := by
    simp only [outStep_eq]
  have hearly : early (outStep s).opR (outStep s).lenR = early s.opR s.lenR := by simp only [outStep_eq]
  have hdir : (outStep s).opR[0] = s.opR[0] := by simp only [outStep_eq]
  have hcounted : ({ s with inCnt := s.inCnt + 1 } : State).oq ≠ [] := hq
  rcases inStep_cases x s with ⟨he, e⟩ | ⟨he, hd, e⟩ | ⟨he, hd, e⟩
  · rw [e, inStep_discard (outStep s) x (hearly ▸ he), hcount]
  · rw [e, outStep_packByte hcounted, hcount, inStep_encode (outStep s) x (hearly.trans he) (hdir.trans hd)]
  · rw [e, outStep_decSym hcounted, hcount, inStep_decode (outStep s) x (hearly.trans he) (hdir.trans hd)]

/-! ### The beats of a clock edge (R78) -/

section ClockEdge

variable {s : State} {p : InputPins s.cfg.lenw}

theorem outBeat_of_canOut (hr : p.rst = false) (hc : canOut s = true) (ho : p.outReady = true) :
    outBeat s p = outStep s := by
  simp [outBeat, outputPins, hr, hc, ho]

theorem outBeat_of_not_ready (ho : p.outReady = false) : outBeat s p = s := by
  simp [outBeat, ho]

theorem clockEdge_of_canCmd (hr : p.rst = false) (hc : canCmd s = true) (hv : p.cmdValid = true) :
    clockEdge s p = cmdStep p.cmdOp p.cmdLen.toNat (outBeat s p) := by
  simp [clockEdge, otherBeat, outputPins, hr, hc, hv]

theorem clockEdge_of_canPrefix (hr : p.rst = false) (hc : canPrefix s = true) :
    clockEdge s p = prefixStep (outBeat s p) := by
  have hcmd : canCmd s = false := by simp [canCmd, ((canPrefix_iff s).mp hc).1]
  simp [clockEdge, otherBeat, outputPins, hr, hcmd, hc]

theorem clockEdge_of_canIn (hr : p.rst = false) (hc : canIn s = true) (hv : p.inValid = true) :
    clockEdge s p = inStep p.inData (outBeat s p) := by
  obtain ⟨hbusy, hpre, -⟩ := (canIn_iff s).mp hc
  have hcmd : canCmd s = false := by simp [canCmd, hbusy]
  have hpfx : canPrefix s = false := by simp [canPrefix, hpre]
  simp [clockEdge, otherBeat, outputPins, hr, hcmd, hpfx, hc, hv]

/-- Without a request from the host and with PREFIX not enabled, a cycle is OUT's alone. -/
theorem clockEdge_of_no_valid (hr : p.rst = false) (hc : canPrefix s = false) (hcmd : p.cmdValid = false)
    (hin : p.inValid = false) (hdone : p.doneReady = false) : clockEdge s p = outBeat s p := by
  simp [clockEdge, otherBeat, hr, hc, hcmd, hin, hdone]

end ClockEdge

/-- Settles O21: the edge takes OUT first, and OUT commutes with IN and with PREFIX. -/
theorem coincidentBeatsAreTwoSteps : Obligations.CoincidentBeatsAreTwoSteps := by
  refine ⟨fun s p hr hin hout hv ho => ?_, fun s p hr hpfx hout ho => ?_,
    fun s p hr hpfx hcmd hin ho hdone => ?_⟩
  · have hedge : clockEdge s p = inStep p.inData (outStep s) := by
      rw [clockEdge_of_canIn hr hin hv, outBeat_of_canOut hr hout ho]
    exact ⟨hedge, by rw [hedge, outStep_inStep ((canOut_iff s).mp hout)]⟩
  · have hedge : clockEdge s p = prefixStep (outStep s) := by
      rw [clockEdge_of_canPrefix hr hpfx, outBeat_of_canOut hr hout ho]
    exact ⟨hedge, by rw [hedge, outStep_prefixStep ((canOut_iff s).mp hout)]⟩
  · rw [clockEdge_of_no_valid hr hpfx hcmd hin hdone, outBeat_of_not_ready ho]

/-- On a CMD turn in IDLE every command is accepted (R191, R192). -/
theorem exec_accepts (i : Instr) {s : State} (hst : s.st = .idle) (ht : turn s = .cmd) :
    exec i s = .next (passTurn (takeCommand (cmdStep i.op i.len s))) := by
  simp [exec_eq_runCommand, runCommand, ht, hst]

/-- Settles O51: the command is the row of the opcode map that the two ports select. -/
theorem commandBeatIsTheCommandWord : Obligations.CommandBeatIsTheCommandWord := by
  intro s p hr hst hoq hv
  obtain ⟨hop, hlen⟩ := instrOf_op_len p.cmdOp p.cmdLen.toNat
  have hfit : (instrOf p.cmdOp p.cmdLen.toNat).len < 2 ^ s.cfg.lenw := by
    rw [hlen]
    exact p.cmdLen.isLt
  have hedge : clockEdge s p = cmdStep p.cmdOp p.cmdLen.toNat s := by
    rw [clockEdge_of_canCmd hr ((canCmd_iff s).mpr hst) hv, outBeat_of_empty hoq]
  refine ⟨instrOf p.cmdOp p.cmdLen.toNat, hop, hlen, by rw [encode, hop, hlen], decode_encode hfit, ?_, ?_,
    fun ht => ?_⟩
  · rw [hedge, hop, hlen]
  · rw [hedge, cmdStep_lenR]
    exact p.cmdLen.isLt
  · rw [exec_accepts _ hst ht, hedge, hop, hlen]

end Sys2Proof.Machine

/-! SUPPORT. A single-group command beside the frame command of one group (40_base85_encoder.md R110,
41_base85_decoder.md R144): two runs that differ in the command on the port or in the command registers alone. -/
namespace Sys2Proof.Machine

/-! ### The rules of one step -/

/-- The next step accepts the command on the port, or refuses the number there (R191). -/
def TakesCommand (s : State) : Prop := turn s = .cmd ∧ s.st = .idle ∧ s.cmdCh ≠ []

theorem step_reset {s : State} (ht : turn s = .reset) : step s = .next (passTurn (resetStep s)) := by
  simp [step, fetch, ht]

/-- The command in the registers does the work of every turn but CMD and RESET (R191). -/
theorem runCommand_own {s : State} (hr : turn s ≠ .reset) (hc : turn s ≠ .cmd) :
    runCommand s.opR s.lenR s = passTurn (workStep (turn s) s) := by
  cases ht : turn s with
  | cmd => exact absurd ht hc
  | reset => exact absurd ht hr
  | pfx | inp | out | done => simp [runCommand, ht]

/-- Every step but RESET and the taking of a command is work on the frame in progress. -/
theorem step_work {s : State} (hr : turn s ≠ .reset) (hc : ¬ TakesCommand s) :
    step s = .next (passTurn (workStep (turn s) s)) := by
  rcases fetch_cases s with ⟨ht, -⟩ | ⟨ht, -, hf⟩ | ⟨w, ws, ht, hst, hcmd, -⟩ | ⟨-, hcmd, hf⟩
  · exact absurd ht hr
  · simp [step, hf, ht, workStep]
  · exact absurd ⟨ht, hst, by simp [hcmd]⟩ hc
  · obtain ⟨hop, hlen⟩ := instrOf_op_len s.opR s.lenR
    simp only [step, hf, exec_eq_runCommand, hop, hlen, runCommand_own hr hcmd]

/-- A relation that matches every step matches every run. -/
theorem runs_simulate {R : State → State → Prop}
    (hstep : ∀ s u t, R s u → step s = .next t → ∃ v, step u = .next v ∧ R t v) {s u t : State} {k : Nat}
    (hR : R s u) (h : runs k s = .next t) : ∃ v, runs k u = .next v ∧ R t v := by
  induction k generalizing s u with
  | zero =>
    obtain rfl : s = t := Host.Outcome.next.inj h
    exact ⟨u, rfl, hR⟩
  | succ k ih =>
    obtain ⟨s', hs, hrun⟩ := runs_succ h
    obtain ⟨u', hu, hR'⟩ := hstep s u s' hR hs
    obtain ⟨v, hv, hRv⟩ := ih hR' hrun
    exact ⟨v, (runs_of_step hu k).trans hv, hRv⟩

/-! ### What reads the command registers

Every step but PREFIX reads them through `need`, `early`, the direction bit and the test for `PZ85D`. -/

/-- `s` with other command words offered and another command in the command registers. -/
def withCommand (c : List Nat) (op : Opcode) (len : Nat) (s : State) : State :=
  { s with cmdCh := c, opR := op, lenR := len }

/-- Two commands whose frames the datapath cannot tell apart once no PREFIX step is due. -/
structure SameFrame (op : Opcode) (len : Nat) (op' : Opcode) (len' : Nat) : Prop where
  need_eq : need op' len' = need op len
  early_eq : early op' len' = early op len
  direction_eq : op'[0] = op[0]
  header_iff : op' = 3#3 ↔ op = 3#3

theorem SameFrame.refl (op : Opcode) (len : Nat) : SameFrame op len op len := ⟨rfl, rfl, rfl, Iff.rfl⟩

section WithCommand

variable {c : List Nat} {op : Opcode} {len : Nat} {s : State}

theorem packByte_withCommand (b : Byte) :
    packByte b (withCommand c op len s) = withCommand c op len (packByte b s) := by
  by_cases hn : s.packN = 3#2 <;> simp [packByte, withCommand, hn, enqueue]

theorem groupOut_withCommand (hf : SameFrame s.opR s.lenR op len) (w : Word) (b o : Bool) :
    groupOut w b o (withCommand c op len s) = withCommand c op len (groupOut w b o s) := by
  simp [groupOut, carriesHeader, withCommand, hf.header_iff, enqueue]

theorem decSym_withCommand (hf : SameFrame s.opR s.lenR op len) (x : Byte) :
    decSym x (withCommand c op len s) = withCommand c op len (decSym x s) := by
  by_cases hn : s.decN = 4#3
  · rw [decSym_complete s x hn, decSym_complete (withCommand c op len s) x hn]
    exact groupOut_withCommand
      (s := { s with decAcc := 0#32, decN := 0#3, decBad := false, decOvf := false }) hf _ _ _
  · rw [decSym_collect s x hn, decSym_collect (withCommand c op len s) x hn]
    rfl

theorem inStep_withCommand (hf : SameFrame s.opR s.lenR op len) (x : Byte) :
    inStep x (withCommand c op len s) = withCommand c op len (inStep x s) := by
  rcases inStep_cases x s with ⟨he, e⟩ | ⟨he, hd, e⟩ | ⟨he, hd, e⟩
  · rw [e, inStep_discard _ x (hf.early_eq ▸ he)]
    rfl
  · rw [e, inStep_encode _ x (hf.early_eq.trans he) (hf.direction_eq.trans hd)]
    exact packByte_withCommand (s := { s with inCnt := s.inCnt + 1 }) x
  · rw [e, inStep_decode _ x (hf.early_eq.trans he) (hf.direction_eq.trans hd)]
    exact decSym_withCommand (s := { s with inCnt := s.inCnt + 1 }) hf x

theorem takeItem_withCommand (hf : SameFrame s.opR s.lenR op len) :
    takeItem (withCommand c op len s) = withCommand c op len (takeItem s) := by
  cases hin : s.inCh with
  | nil => rw [takeItem_nil hin, takeItem_nil (s := withCommand c op len s) hin]
  | cons x rest =>
    rw [takeItem_cons s hin, takeItem_cons (withCommand c op len s) hin]
    exact inStep_withCommand (s := { s with inCh := rest }) hf x

/-- PREFIX alone reads the length register itself (R167). -/
theorem prefixStep_withCommand (hlen : len = s.lenR) :
    prefixStep (withCommand c op len s) = withCommand c op len (prefixStep s) := by
  subst hlen
  exact packByte_withCommand (s := { s with preN := s.preN - 1#3 }) (prefixByte s)

theorem outStep_withCommand : outStep (withCommand c op len s) = withCommand c op len (outStep s) := by
  simp only [outStep_eq, withCommand]

theorem doneWord_withCommand (hf : SameFrame s.opR s.lenR op len) :
    doneWord (withCommand c op len s) = doneWord s := by
  have hstatus : doneStatus op len s.badR s.oor = doneStatus s.opR s.lenR s.badR s.oor := by
    simp only [doneStatus, hf.early_eq]
  exact congrArg (DoneWord.mk · s.ovfR) hstatus

theorem doneStep_withCommand (hf : SameFrame s.opR s.lenR op len) :
    doneStep (withCommand c op len s) = withCommand c op len (doneStep s) := by
  rw [doneStep, doneStep, doneWord_withCommand hf]
  split <;> rfl

theorem canIn_withCommand (hf : SameFrame s.opR s.lenR op len) : canIn (withCommand c op len s) = canIn s := by
  rw [Bool.eq_iff_iff, canIn_iff, canIn_iff]
  simp only [withCommand, hf.need_eq]

theorem canDone_withCommand (hf : SameFrame s.opR s.lenR op len) :
    canDone (withCommand c op len s) = canDone s := by
  rw [Bool.eq_iff_iff, canDone_iff, canDone_iff]
  simp only [withCommand, hf.need_eq]

/-- Work on a frame does not tell apart commands with the same frame. -/
theorem workStep_withCommand (hf : SameFrame s.opR s.lenR op len) (hpre : s.preN ≠ 0#3 → len = s.lenR)
    (t : Turn) : workStep t (withCommand c op len s) = withCommand c op len (workStep t s) := by
  cases t with
  | pfx =>
    by_cases hc : canPrefix s = true
    · simp only [workStep, hc, if_true, ← prefixStep_withCommand (hpre ((canPrefix_iff s).mp hc).2.1)]
      exact if_pos hc
    · simp only [workStep, hc]
      exact if_neg hc
  | inp =>
    simp only [workStep, canIn_withCommand hf, takeItem_withCommand hf]
    split <;> rfl
  | out =>
    simp only [workStep, outStep_withCommand]
    exact (apply_ite (withCommand c op len) _ _ _).symm
  | done =>
    simp only [workStep, canDone_withCommand hf, doneStep_withCommand hf]
    split <;> rfl
  | cmd | reset => rfl

/-- The turn depends on whether a command is offered, and not on which. -/
theorem turn_withCommand (hf : SameFrame s.opR s.lenR op len) (hc : c = [] ↔ s.cmdCh = []) :
    turn (withCommand c op len s) = turn s := by
  have hempty : (withCommand c op len s).cmdCh.isEmpty = s.cmdCh.isEmpty := by
    rw [Bool.eq_iff_iff, List.isEmpty_iff, List.isEmpty_iff]
    exact hc
  have heager : eagerTurn (withCommand c op len s) = eagerTurn s := by
    rw [eagerTurn, eagerTurn, canIn_withCommand hf, canDone_withCommand hf, hempty]
    rfl
  rw [turn, turn, heager]
  rfl

end WithCommand

/-- Work on a frame writes neither the command registers nor the command channel: putting back what stands there
before the work or after it is the same. -/
theorem workStep_command (t : Turn) (s : State) :
    (workStep t s).opR = s.opR ∧ (workStep t s).lenR = s.lenR ∧ (workStep t s).cmdCh = s.cmdCh := by
  have h : workStep t s = withCommand s.cmdCh s.opR s.lenR (workStep t s) :=
    workStep_withCommand (.refl s.opR s.lenR) (fun _ => rfl) t
  rw [h]
  exact ⟨rfl, rfl, rfl⟩

/-! ### A frame with no PREFIX step due -/

theorem packByte_preN (b : Byte) (s : State) : (packByte b s).preN = s.preN := by
  rcases packByte_cases s b with ⟨-, e⟩ | ⟨-, e⟩ <;> rw [e]

theorem decSym_preN (x : Byte) (s : State) : (decSym x s).preN = s.preN := by
  by_cases hn : s.decN = 4#3
  · rw [decSym_complete s x hn, groupOut, enqueue_preN]
  · rw [decSym_collect s x hn]

theorem takeItem_preN (s : State) : (takeItem s).preN = s.preN := by
  cases hin : s.inCh with
  | nil => rw [takeItem_nil hin]
  | cons x rest =>
    rw [takeItem_cons s hin]
    rcases inStep_cases x { s with inCh := rest } with ⟨-, e⟩ | ⟨-, -, e⟩ | ⟨-, -, e⟩ <;> rw [e]
    · exact packByte_preN _ _
    · exact decSym_preN _ _

/-- Only PREFIX writes `pre_n`, and it is not enabled (R197). -/
theorem workStep_preN {s : State} (h : s.preN = 0#3) (t : Turn) : (workStep t s).preN = 0#3 := by
  have keep {b : Bool} {u : State} (hu : u.preN = s.preN) : (if b then u else s).preN = 0#3 := by
    split
    · exact hu.trans h
    · exact h
  cases t with
  | pfx => simp [workStep, canPrefix, h]
  | inp => exact keep (takeItem_preN s)
  | out => exact keep (by rw [outStep_eq])
  | done => exact keep (by rcases doneStep_cases s with ⟨-, e⟩ | ⟨-, e⟩ <;> rw [e])
  | cmd | reset => exact h

/-! ### The simulation -/

/-- `g` and `z` have the same frame and no PREFIX step. -/
structure SamePlainFrame (g z : Instr) : Prop where
  same : SameFrame g.op g.len z.op z.len
  nothing_inserted : prefixCount g.op g.len = 0 ∧ prefixCount z.op z.len = 0

/-- Two states of runs that differ in the one command offered, `g` or `z`: it is still on the port, or it is in the
command registers, or RESET has abandoned it. -/
inductive Twin (g z : Instr) : State → State → Prop where
  | offered {s : State} (hcmd : s.cmdCh = [encode g]) (hg : g.len < 2 ^ s.cfg.lenw)
      (hz : z.len < 2 ^ s.cfg.lenw) : Twin g z s (withCommand [encode z] s.opR s.lenR s)
  | accepted {s : State} (hcmd : s.cmdCh = []) (hop : s.opR = g.op) (hlen : s.lenR = g.len)
      (hpre : s.preN = 0#3) : Twin g z s (withCommand [] z.op z.len s)
  | same (s : State) : Twin g z s s

/-- A step that is neither RESET nor the taking of a command is the same work in both states. -/
theorem step_work_withCommand {c : List Nat} {op : Opcode} {len : Nat} {s : State}
    (hf : SameFrame s.opR s.lenR op len) (hpre : s.preN ≠ 0#3 → len = s.lenR) (hc : c = [] ↔ s.cmdCh = [])
    (hr : turn s ≠ .reset) (ht : ¬ TakesCommand s) :
    step (withCommand c op len s) = .next (withCommand c op len (passTurn (workStep (turn s) s))) := by
  have hturn := turn_withCommand hf hc
  have ht' : ¬ TakesCommand (withCommand c op len s) := fun ⟨hcmd, hst, hne⟩ =>
    ht ⟨hturn ▸ hcmd, hst, fun h => hne (hc.mpr h)⟩
  rw [step_work (hturn ▸ hr) ht', hturn, workStep_withCommand hf hpre]
  rfl

section Simulation

variable {g z : Instr} {s t : State}

/-- Both offers are taken together, and leave the same frame in progress (R192). -/
theorem twin_accepts (hp : SamePlainFrame g z) (ht : TakesCommand s) (hcmd : s.cmdCh = [encode g])
    (hg : g.len < 2 ^ s.cfg.lenw) (hz : z.len < 2 ^ s.cfg.lenw) (h : step s = .next t) :
    ∃ v, step (withCommand [encode z] s.opR s.lenR s) = .next v ∧ Twin g z t v := by
  obtain ⟨hturn, hst, -⟩ := ht
  obtain ⟨hpg, hpz⟩ := hp.nothing_inserted
  rw [step_accepts hst hturn hcmd (decode_encode hg)] at h
  obtain rfl := Host.Outcome.next.inj h
  have hturn' : turn (withCommand [encode z] s.opR s.lenR s) = .cmd :=
    (turn_withCommand (.refl _ _) (by simp [hcmd])).trans hturn
  have hsame : passTurn (takeCommand (cmdStep z.op z.len (withCommand [encode z] s.opR s.lenR s))) =
      withCommand [] z.op z.len (passTurn (takeCommand (cmdStep g.op g.len s))) := by
    simp only [cmdStep, withCommand, takeCommand, passTurn, hpg, hpz, List.tail_cons]
  refine ⟨_, step_accepts hst hturn' rfl (decode_encode hz), ?_⟩
  rw [hsame]
  exact .accepted (by simp [hcmd]) rfl rfl (by simp [hpg])

theorem twin_offered (hp : SamePlainFrame g z) (hcmd : s.cmdCh = [encode g])
    (hg : g.len < 2 ^ s.cfg.lenw) (hz : z.len < 2 ^ s.cfg.lenw) (h : step s = .next t) :
    ∃ v, step (withCommand [encode z] s.opR s.lenR s) = .next v ∧ Twin g z t v := by
  have hoffer : [encode z] = [] ↔ s.cmdCh = [] := by simp [hcmd]
  have hturn := turn_withCommand (.refl s.opR s.lenR) hoffer
  by_cases hr : turn s = .reset
  · rw [step_reset hr] at h
    obtain rfl := Host.Outcome.next.inj h
    exact ⟨_, step_reset (hturn.trans hr), .offered (s := passTurn (resetStep s)) hcmd hg hz⟩
  · by_cases ht : TakesCommand s
    · exact twin_accepts hp ht hcmd hg hz h
    · obtain ⟨hcfg, -⟩ := stepKeepsParametersAndDeliveries s t h
      rw [step_work hr ht] at h
      obtain rfl := Host.Outcome.next.inj h
      obtain ⟨hop, hlen, hch⟩ := workStep_command (turn s) s
      refine ⟨_, step_work_withCommand (.refl _ _) (fun _ => rfl) hoffer hr ht, ?_⟩
      rw [← hop, ← hlen]
      exact .offered (hch.trans hcmd) (hcfg ▸ hg) (hcfg ▸ hz)

theorem twin_accepted (hp : SamePlainFrame g z) (hcmd : s.cmdCh = []) (hop : s.opR = g.op)
    (hlen : s.lenR = g.len) (hpre : s.preN = 0#3) (h : step s = .next t) :
    ∃ v, step (withCommand [] z.op z.len s) = .next v ∧ Twin g z t v := by
  have hf : SameFrame s.opR s.lenR z.op z.len := by
    rw [hop, hlen]
    exact hp.same
  have hoffer : ([] : List Nat) = [] ↔ s.cmdCh = [] := by simp [hcmd]
  by_cases hr : turn s = .reset
  · rw [step_reset hr] at h
    obtain rfl := Host.Outcome.next.inj h
    refine ⟨_, step_reset ((turn_withCommand hf hoffer).trans hr), ?_⟩
    have hreset : resetStep (withCommand [] z.op z.len s) = resetStep s := by
      simp only [resetStep, withCommand, hcmd]
    rw [hreset]
    exact .same _
  · have ht : ¬ TakesCommand s := fun ⟨_, _, hne⟩ => hne hcmd
    rw [step_work hr ht] at h
    obtain rfl := Host.Outcome.next.inj h
    obtain ⟨hop', hlen', hch⟩ := workStep_command (turn s) s
    exact ⟨_, step_work_withCommand hf (fun hne => absurd hpre hne) hoffer hr ht,
      .accepted (hch.trans hcmd) (hop'.trans hop) (hlen'.trans hlen) (workStep_preN hpre _)⟩

/-- Every step of the one run has its counterpart in the other. -/
theorem twin_step (hp : SamePlainFrame g z) {u : State} (hR : Twin g z s u) (h : step s = .next t) :
    ∃ v, step u = .next v ∧ Twin g z t v := by
  cases hR with
  | offered hcmd hg hz => exact twin_offered hp hcmd hg hz h
  | accepted hcmd hop hlen hpre => exact twin_accepted hp hcmd hop hlen hpre h
  | same => exact ⟨t, h, .same t⟩

/-- What the host sees of two such states is the same. -/
theorem Twin.visible_eq {u : State} (h : Twin g z s u) :
    u.sink = s.sink ∧ u.st = s.st ∧ u.inCh = s.inCh ∧ u.oq = s.oq := by
  cases h <;> exact ⟨rfl, rfl, rfl, rfl⟩

end Simulation

/-- `ENCG` has the frame of `Z85E` with length 4, and `DECG` that of `Z85D` with length 5 (R24, R110, R144); both lengths
fit the least `LENW` (R6). -/
theorem samePlainFrame_group {n : Nat} {g z : Instr}
    (h : (g = .encg n ∧ z = .z85e 4) ∨ (g = .decg n ∧ z = .z85d 5)) : SamePlainFrame g z ∧ z.len ≤ 5 := by
  rcases h with ⟨rfl, rfl⟩ | ⟨rfl, rfl⟩
  · exact ⟨⟨⟨rfl, rfl, by simp, by simp [Instr.op]⟩, rfl, rfl⟩, by decide⟩
  · exact ⟨⟨⟨rfl, rfl, by simp, by simp [Instr.op]⟩, rfl, rfl⟩, by decide⟩

/-- Settles O50: the two runs stay twins, step by step, from the two offers on. -/
theorem groupCommandsEqualOneGroupFrames : Obligations.GroupCommandsEqualOneGroupFrames := by
  intro s t n k g z hlegal hgz hwf hcmd hrun
  obtain ⟨hp, hz⟩ := samePlainFrame_group hgz
  obtain ⟨hlenw, -⟩ := hlegal
  have hfit : z.len < 2 ^ s.cfg.lenw :=
    calc z.len < 2 ^ 3 := by omega
      _ ≤ 2 ^ s.cfg.lenw := Nat.pow_le_pow_right (by decide) hlenw
  obtain ⟨u, hu, hR⟩ := runs_simulate (fun _ _ _ => twin_step hp)
    (.offered hcmd (wellFormed_iff.mp hwf) hfit) hrun
  exact ⟨u, hu, hR.visible_eq⟩

end Sys2Proof.Machine

/-! SUPPORT. The encoder: the base-85 digits of a word (40_base85_encoder.md R101, R102), its symbols (R104, R106) and
the frames of whole groups (R111 to R114; 42_padded_wrapper.md R165, R168). -/
namespace Sys2Proof.Machine

/-! ### Digits -/

/-- The digits by division with the powers of 85; the first needs no remainder, since `2^32 < 83 * 85^4` (R101). -/
theorem digits_toNat (w : Word) : (digits w).map BitVec.toNat =
    [w.toNat / 85 ^ 4, w.toNat / 85 ^ 3 % 85, w.toNat / 85 ^ 2 % 85, w.toNat / 85 % 85, w.toNat % 85] := by
  have hw := w.isLt
  simp only [digits, List.map_cons, List.map_nil, digit_toNat, List.cons.injEq, pow_one, pow_zero, Nat.div_one,
    and_true]
  exact Nat.mod_eq_of_lt (by omega)

/-- Five digits with the value of a word are its digits (R102). -/
theorem digits_of_value {w : Word} {e0 e1 e2 e3 e4 : Nat} (h1 : e1 ≤ 84) (h2 : e2 ≤ 84) (h3 : e3 ≤ 84)
    (h4 : e4 ≤ 84) (hv : w.toNat = e0 * 85 ^ 4 + e1 * 85 ^ 3 + e2 * 85 ^ 2 + e3 * 85 + e4) :
    (digits w).map BitVec.toNat = [e0, e1, e2, e3, e4] := by
  rw [digits_toNat]
  simp only [List.cons.injEq, and_true]
  omega

/-- The value of a word's digits is the word (R102). -/
theorem value_of_digits {w : Word} {e0 e1 e2 e3 e4 : Nat}
    (h : (digits w).map BitVec.toNat = [e0, e1, e2, e3, e4]) :
    w.toNat = e0 * 85 ^ 4 + e1 * 85 ^ 3 + e2 * 85 ^ 2 + e3 * 85 + e4 := by
  rw [digits_toNat] at h
  simp only [List.cons.injEq, and_true] at h
  omega

/-- The digit group is the number of the digits in base 128 (R85). -/
theorem digitGroup_toNat {w : Word} {e0 e1 e2 e3 e4 : Nat}
    (h : (digits w).map BitVec.toNat = [e0, e1, e2, e3, e4]) :
    (digitGroup w).toNat = e0 * 2 ^ 28 + e1 * 2 ^ 21 + e2 * 2 ^ 14 + e3 * 2 ^ 7 + e4 := by
  simp only [digits, List.map_cons, List.map_nil, List.cons.injEq, and_true] at h
  obtain ⟨h0, h1, h2, h3, h4⟩ := h
  rw [digitGroup, groupBits_toNat, h0, h1, h2, h3, h4]

/-- Five digits are those of a word exactly when their value fits 32 bits (R102). -/
theorem exists_digits_iff {e0 e1 e2 e3 e4 : Nat} (h1 : e1 ≤ 84) (h2 : e2 ≤ 84) (h3 : e3 ≤ 84) (h4 : e4 ≤ 84) :
    (∃ w : Word, (digits w).map BitVec.toNat = [e0, e1, e2, e3, e4]) ↔
      e0 * 85 ^ 4 + e1 * 85 ^ 3 + e2 * 85 ^ 2 + e3 * 85 + e4 ≤ 2 ^ 32 - 1 := by
  constructor
  · rintro ⟨w, hw⟩
    have hlt := w.isLt
    rw [← value_of_digits hw]
    omega
  · intro hv
    refine ⟨BitVec.ofNat 32 (e0 * 85 ^ 4 + e1 * 85 ^ 3 + e2 * 85 ^ 2 + e3 * 85 + e4),
      digits_of_value h1 h2 h3 h4 ?_⟩
    rw [BitVec.toNat_ofNat]
    exact Nat.mod_eq_of_lt (by omega)

/-- Settles O33: the digits are the quotients and remainders of the word by 85. -/
theorem digitsAreTheBase85Expansion : Obligations.DigitsAreTheBase85Expansion := by
  refine ⟨fun w => ⟨_, _, _, _, _, digits_toNat w, ?_⟩,
    fun w e0 e1 e2 e3 e4 _ h1 h2 h3 h4 hv => digits_of_value h1 h2 h3 h4 hv,
    fun e0 e1 e2 e3 e4 _ h1 h2 h3 h4 => exists_digits_iff h1 h2 h3 h4⟩
  have hw := w.isLt
  have hvalue := value_of_digits (digits_toNat w)
  refine ⟨?_, ?_, ?_, ?_, ?_, hvalue, rfl, rfl, ?_, ?_, ?_, digitGroup_toNat (digits_toNat w)⟩
  all_goals omega

/-! ### Symbols -/

theorem digit_lt (w : Word) (k : Nat) : (digit w k).toNat < 85 := by
  rw [digit_toNat]
  exact Nat.mod_lt _ (by decide)

theorem digits_lt {w : Word} {d : Digit} (h : d ∈ digits w) : d.toNat < 85 := by
  simp only [digits, List.mem_cons, List.not_mem_nil, or_false] at h
  rcases h with rfl | rfl | rfl | rfl | rfl <;> exact digit_lt w _

/-- Words with the same digits are equal (R102). -/
theorem digits_injective : Function.Injective digits := by
  intro w v h
  have hw := value_of_digits (digits_toNat v ▸ congrArg (List.map BitVec.toNat) h)
  exact BitVec.eq_of_toNat_eq (hw.trans (value_of_digits (digits_toNat v)).symm)

/-- Different digits have different symbols (R79 (b)). -/
theorem encRom_inj {alphabet : List Sym} (hnodup : alphabet.Nodup) {d e : Digit}
    (hd : d.toNat < alphabet.length) (he : e.toNat < alphabet.length)
    (h : encRom alphabet d = encRom alphabet e) : d = e := by
  rw [encRom_eq_getElem hd, encRom_eq_getElem he] at h
  exact BitVec.eq_of_toNat_eq (hnodup.getElem_inj_iff.mp h)

/-- Words with the same symbols are equal (R106). -/
theorem encGrp_injective {alphabet : List Sym} (hlen : alphabet.length = 85) (hnodup : alphabet.Nodup) :
    Function.Injective (encGrp alphabet) := by
  intro w v h
  have digit_eq (k : Nat) (hk : encRom alphabet (digit w k) = encRom alphabet (digit v k)) :
      digit w k = digit v k :=
    encRom_inj hnodup (hlen ▸ digit_lt w k) (hlen ▸ digit_lt v k) hk
  simp only [encGrp, digits, List.map_cons, List.map_nil, List.cons.injEq, and_true] at h
  obtain ⟨h4, h3, h2, h1, h0⟩ := h
  apply digits_injective
  rw [digits, digits, digit_eq 4 h4, digit_eq 3 h3, digit_eq 2 h2, digit_eq 1 h1, digit_eq 0 h0]

/-- A symbol's item has bit 7 clear (R75). -/
theorem symItem_msb (c : Sym) : (symItem c).msb = false := by
  rw [BitVec.msb_eq_false_iff_two_mul_lt, symItem_toNat]
  have := c.isLt
  omega

/-- Every item of a group is the item of a symbol of the alphabet (R106). -/
theorem mem_encItems {alphabet : List Sym} (hlen : alphabet.length = 85) {w : Word} {y : Byte}
    (hy : y ∈ encItems alphabet w) : ∃ a ∈ alphabet, y = symItem a := by
  simp only [encItems, encGrp, List.mem_map] at hy
  obtain ⟨_, ⟨d, hd, rfl⟩, rfl⟩ := hy
  have hlt : d.toNat < alphabet.length := hlen ▸ digits_lt hd
  exact ⟨_, encRom_eq_getElem hlt ▸ List.getElem_mem hlt, rfl⟩

/-- A 7-bit field shifted in at the low end of a group with room at the top (R85). -/
theorem shiftIn_toNat {acc : Group} (h : acc.toNat < 2 ^ 28) (x : Sym) :
    (acc * 128#35 + x.zeroExtend 35).toNat = acc.toNat * 128 + x.toNat := by
  have hx := x.isLt
  simp only [BitVec.truncate_eq_setWidth, BitVec.toNat_add, BitVec.toNat_mul, BitVec.toNat_setWidth,
    BitVec.toNat_ofNat]
  omega

/-- Five fields shifted in one after the other are the group (R85). -/
theorem foldl_shiftIn_eq_groupBits (x0 x1 x2 x3 x4 : Sym) :
    [x0, x1, x2, x3, x4].foldl (fun (acc : BitVec 35) (a : Sym) => acc * 128#35 + a.zeroExtend 35) 0#35 =
      groupBits x0 x1 x2 x3 x4 := by
  have b0 := x0.isLt; have b1 := x1.isLt; have b2 := x2.isLt; have b3 := x3.isLt; have b4 := x4.isLt
  apply BitVec.eq_of_toNat_eq
  simp only [List.foldl_cons, List.foldl_nil]
  have s0 := shiftIn_toNat (acc := 0#35) (by simp) x0
  have s1 := shiftIn_toNat (by rw [s0, BitVec.toNat_zero]; omega) x1
  have s2 := shiftIn_toNat (by rw [s1, s0, BitVec.toNat_zero]; omega) x2
  have s3 := shiftIn_toNat (by rw [s2, s1, s0, BitVec.toNat_zero]; omega) x3
  have s4 := shiftIn_toNat (by rw [s3, s2, s1, s0, BitVec.toNat_zero]; omega) x4
  rw [groupBits_toNat, s4, s3, s2, s1, s0, BitVec.toNat_zero]
  omega

/-- Settles O35: digits determine the word and symbols the digits, within a table of 85 different symbols. -/
theorem encoderIsInjectiveIntoTheAlphabet : Obligations.EncoderIsInjectiveIntoTheAlphabet := by
  intro c ⟨_, _, hlen, hnodup, _⟩
  refine ⟨fun w v h => encGrp_injective hlen hnodup h,
    fun w => ⟨encItems_length c.alphabet w, fun y hy => ?_⟩, fun w => ?_⟩
  · obtain ⟨a, ha, rfl⟩ := mem_encItems hlen hy
    exact ⟨symItem_msb a, a, ha, rfl⟩
  · rw [encGrpBits_eq]
    exact (foldl_shiftIn_eq_groupBits _ _ _ _ _).symm

/-! ### Frames -/

/-- Five symbols for every whole group, none for a partial one (R113). -/
theorem encodeGroups_length (alphabet : List Sym) :
    ∀ b : List Byte, (encodeGroups alphabet b).length = 5 * (b.length / 4)
  | [] | [_] | [_, _] | [_, _, _] => by simp [encodeGroups]
  | _ :: _ :: _ :: _ :: rest => by
    simp only [encodeGroups, List.length_append, encItems_length, encodeGroups_length alphabet rest,
      List.length_cons]
    omega

/-- After whole groups the encoder begins anew (R114 (a)). -/
theorem encodeGroups_append (alphabet : List Sym) (b : List Byte) :
    ∀ a : List Byte, a.length % 4 = 0 →
      encodeGroups alphabet (a ++ b) = encodeGroups alphabet a ++ encodeGroups alphabet b
  | [], _ => rfl
  | [_], h | [_, _], h | [_, _, _], h => by simp at h
  | _ :: _ :: _ :: _ :: rest, h => by
    have hrest : rest.length % 4 = 0 := by
      simp only [List.length_cons] at h
      omega
    have ih := encodeGroups_append alphabet b rest hrest
    simp only [List.cons_append, encodeGroups, ih, List.append_assoc]

theorem z85Encode_whole {b : List Byte} (h : b.length % 4 = 0) (alphabet : List Sym) :
    z85Encode alphabet b = .ok (encodeGroups alphabet b) false := by
  simp [z85Encode, h]

theorem z85Encode_partial {b : List Byte} (h : b.length % 4 ≠ 0) (alphabet : List Sym) :
    z85Encode alphabet b = .soft .invalidLength := by
  simp [z85Encode, h]

theorem inner_length (b : List Byte) : (inner b).length = 1 + padLen b.length + b.length := by
  simp [inner]
  omega

/-- The padded encode never fails: its inner buffer is of whole groups (R160, R165). -/
theorem pz85Encode_eq (alphabet : List Sym) (b : List Byte) :
    pz85Encode alphabet b = .ok (encodeGroups alphabet (inner b)) false :=
  z85Encode_whole (by rw [inner_length, padLen_completes]) alphabet

/-- Settles O42: every whole group gives five symbols, and the inner buffer has one group more than the payload. -/
theorem encodeLengthLaws : Obligations.EncodeLengthLaws := by
  intro c b
  have hlen := encodeGroups_length c.alphabet
  have hcomplete := padLen_completes b.length
  have hpad := padLen_le b.length
  refine ⟨fun h => ⟨_, z85Encode_whole h c.alphabet, ?_⟩, fun h => z85Encode_partial h c.alphabet,
    _, pz85Encode_eq c.alphabet b, ?_, ?_⟩
  · rw [hlen]
    omega
  · rw [hlen, inner_length]
    omega
  · rw [hlen, inner_length]
    omega

/-- Settles O44: the groups of the second frame begin where those of the first end. -/
theorem encodingIsPiecewise : Obligations.EncodingIsPiecewise := by
  intro c a b ha hb
  refine ⟨_, _, z85Encode_whole ha c.alphabet, z85Encode_whole hb c.alphabet, ?_⟩
  rw [z85Encode_whole (by rw [List.length_append]; omega), encodeGroups_append c.alphabet b a ha]

end Sys2Proof.Machine

/-! SUPPORT. The decoder: a group as five steps of the accumulation (41_base85_decoder.md R134 to R140), its overflow
(R142), canonical groups as the encoder's outputs (R143) and the frames of whole groups (R145 to R150). -/
namespace Sys2Proof.Machine

/-! ### The group function -/

/-- The group value is five steps of the accumulation from 0 (R134). -/
theorem groupValue_eq_accumulate (alphabet : List Sym) (x0 x1 x2 x3 x4 : Byte) :
    groupValue alphabet x0 x1 x2 x3 x4 =
      accumulate (accumulate (accumulate (accumulate (accumulate 0 (decLookup alphabet x0))
        (decLookup alphabet x1)) (decLookup alphabet x2)) (decLookup alphabet x3)) (decLookup alphabet x4) := by
  simp only [groupValue, accumulate]
  ring

/-- The word of a group is the low 32 bits of its value (R137 (c)). -/
theorem decGrp_w_toNat (alphabet : List Sym) (x0 x1 x2 x3 x4 : Byte) :
    (decGrp alphabet x0 x1 x2 x3 x4).w.toNat = groupValue alphabet x0 x1 x2 x3 x4 % 2 ^ 32 :=
  BitVec.toNat_ofNat _ _

/-- A group overflows when its value does not fit 32 bits (R137 (b)). -/
theorem decGrp_ovf_iff (alphabet : List Sym) (x0 x1 x2 x3 x4 : Byte) :
    (decGrp alphabet x0 x1 x2 x3 x4).ovf = true ↔ 2 ^ 32 ≤ groupValue alphabet x0 x1 x2 x3 x4 :=
  decide_eq_true_iff

/-- A group is good when each of its five items is the item of a symbol (R136). -/
theorem decGrp_good_iff (alphabet : List Sym) (x0 x1 x2 x3 x4 : Byte) :
    (decGrp alphabet x0 x1 x2 x3 x4).bad = false ↔
      ∀ y ∈ [x0, x1, x2, x3, x4], (decLookup alphabet y).valid = true := by
  simp [decGrp, and_assoc]

/-! ### Five symbols -/

/-- `s` with the decoder after `n` symbols without overflow, of value `acc`. -/
def withDecoder (acc n : Nat) (bad : Bool) (s : State) : State :=
  { s with decAcc := BitVec.ofNat 32 acc, decN := BitVec.ofNat 3 n, decBad := bad, decOvf := false }

theorem withDecoder_of_empty {s : State} (hacc : s.decAcc = 0#32) (hn : s.decN = 0#3) (hbad : s.decBad = false)
    (hovf : s.decOvf = false) : withDecoder 0 0 false s = s := by
  obtain ⟨⟩ := s
  simp_all [withDecoder]

section FiveSymbols

variable {acc n : Nat} (bad : Bool) (s : State) (x : Byte)

/-- The value of `n` symbols and one more (R137 (a)), with no assumption on the alphabet: a digit has 7 bits. -/
theorem accumulate_lt_pow {e : DecEntry} (h : acc < 128 ^ n) : accumulate acc e < 128 ^ (n + 1) := by
  have he := e.digit.isLt
  rw [accumulate, Nat.pow_succ]
  omega

/-- The first four symbols are accumulated exactly (R135, R137 (a)). -/
theorem decSym_withDecoder (hn : n < 4) (h : acc < 128 ^ n) :
    decSym x (withDecoder acc n bad s) =
      withDecoder (accumulate acc (decLookup s.cfg.alphabet x)) (n + 1)
        (symBad bad (decLookup s.cfg.alphabet x)) s := by
  have hnext : accumulate acc (decLookup s.cfg.alphabet x) < 2 ^ 32 :=
    (accumulate_lt_pow h).trans_le (Nat.pow_le_pow_right (by decide) (by omega : n + 1 ≤ 4)) |>.trans (by decide)
  have hacc : (BitVec.ofNat 32 acc).toNat = acc := by
    rw [BitVec.toNat_ofNat]
    refine Nat.mod_eq_of_lt (lt_of_le_of_lt ?_ hnext)
    rw [accumulate]
    omega
  have hcount : BitVec.ofNat 3 n ≠ 4#3 := by bv_omega
  have hovf : symOvf false (accumulate acc (decLookup s.cfg.alphabet x)) = false := by
    simpa [symOvf] using hnext
  rw [decSym_collect _ _ hcount]
  simp only [withDecoder, hacc, hovf, BitVec.ofNat_add]

/-- The fifth symbol completes the group and empties the decoder (R135, R138). -/
theorem decSym_withDecoder_four (h : acc < 128 ^ 4) :
    decSym x (withDecoder acc 4 bad s) =
      groupOut (BitVec.ofNat 32 (accumulate acc (decLookup s.cfg.alphabet x)))
        (symBad bad (decLookup s.cfg.alphabet x))
        (decide (2 ^ 32 ≤ accumulate acc (decLookup s.cfg.alphabet x))) (withDecoder 0 0 false s) := by
  have hacc : (BitVec.ofNat 32 acc).toNat = acc := by
    rw [BitVec.toNat_ofNat]
    exact Nat.mod_eq_of_lt (h.trans (by decide))
  rw [decSym_complete _ _ rfl]
  simp only [withDecoder, hacc, symOvf, Bool.false_or]

/-- Five symbols from the empty decoder are one group (R140). -/
theorem decSym_five (x0 x1 x2 x3 x4 : Byte) :
    decSym x4 (decSym x3 (decSym x2 (decSym x1 (decSym x0 (withDecoder 0 0 false s))))) =
      groupOut (decGrp s.cfg.alphabet x0 x1 x2 x3 x4).w (decGrp s.cfg.alphabet x0 x1 x2 x3 x4).bad
        (decGrp s.cfg.alphabet x0 x1 x2 x3 x4).ovf (withDecoder 0 0 false s) := by
  have h0 : 0 < 128 ^ 0 := by decide
  have h1 := accumulate_lt_pow (e := decLookup s.cfg.alphabet x0) h0
  have h2 := accumulate_lt_pow (e := decLookup s.cfg.alphabet x1) h1
  have h3 := accumulate_lt_pow (e := decLookup s.cfg.alphabet x2) h2
  have h4 := accumulate_lt_pow (e := decLookup s.cfg.alphabet x3) h3
  rw [decSym_withDecoder _ _ _ (by decide) h0, decSym_withDecoder _ _ _ (by decide) h1,
    decSym_withDecoder _ _ _ (by decide) h2, decSym_withDecoder _ _ _ (by decide) h3,
    decSym_withDecoder_four _ _ _ h4, ← groupValue_eq_accumulate]
  rfl

/-- `GroupOut` does not touch the decoder (R205, R206). -/
theorem groupOut_decoder (w : Word) (b o : Bool) :
    (groupOut w b o s).decAcc = s.decAcc ∧ (groupOut w b o s).decN = s.decN ∧
      (groupOut w b o s).decBad = s.decBad ∧ (groupOut w b o s).decOvf = s.decOvf := by
  obtain ⟨items, -, e⟩ := groupOut_frame s w b o
  rw [e]
  exact ⟨rfl, rfl, rfl, rfl⟩

end FiveSymbols

/-- Settles O37: four symbols are accumulated exactly, and the fifth hands over the value. -/
theorem fiveSymbolsDecodeOneGroup : Obligations.FiveSymbolsDecodeOneGroup := by
  intro s x0 x1 x2 x3 x4 e v bad
  have hbad : (decGrp s.cfg.alphabet x0 x1 x2 x3 x4).bad = bad := by simp only [decGrp, bad, e, Bool.not_and]
  have hword : BitVec.ofNat 32 (v % 2 ^ 32) = BitVec.ofNat 32 v := by
    apply BitVec.eq_of_toNat_eq
    rw [BitVec.toNat_ofNat, BitVec.toNat_ofNat, Nat.mod_mod]
  refine ⟨?_, ?_⟩
  · rw [hword, ← hbad]
    rfl
  · intro hacc hn hbad0 hovf t
    have ht : t = groupOut (BitVec.ofNat 32 v) bad (decide (2 ^ 32 ≤ v)) s := by
      have hfive := decSym_five s x0 x1 x2 x3 x4
      rwa [withDecoder_of_empty hacc hn hbad0 hovf, hbad] at hfive
    obtain ⟨hacc', hn', hbad', hovf'⟩ := groupOut_decoder s (BitVec.ofNat 32 v) bad (decide (2 ^ 32 ≤ v))
    rw [ht]
    exact ⟨rfl, hacc'.trans hacc, hn'.trans hn, hbad'.trans hbad0, hovf'.trans hovf⟩

/-! ### Overflow -/

/-- Settles O39: the lexicographic comparison with the digits of `2^32 - 1`, which are 82, 23, 54, 12, 0. -/
theorem overflowDependsOnTheLeadingDigits : Obligations.OverflowDependsOnTheLeadingDigits := by
  intro c x0 x1 x2 x3 x4 e0 e1 e2 e3 e4 ⟨_, _, hlen, _⟩ h0 h1 h2 h3 h4
  have hdigit := decLookup_digit_lt hlen
  have b0 : e0 < 85 := h0 ▸ hdigit x0
  have b1 : e1 < 85 := h1 ▸ hdigit x1
  have b2 : e2 < 85 := h2 ▸ hdigit x2
  have b3 : e3 < 85 := h3 ▸ hdigit x3
  have b4 : e4 < 85 := h4 ▸ hdigit x4
  have hv : groupValue c.alphabet x0 x1 x2 x3 x4 = e0 * 85 ^ 4 + e1 * 85 ^ 3 + e2 * 85 ^ 2 + e3 * 85 + e4 := by
    rw [groupValue, h0, h1, h2, h3, h4]
  rw [decGrp_ovf_iff, decGrp_w_toNat, hv]
  exact ⟨by omega, rfl⟩

/-! ### Canonical groups -/

section Canonical

variable {alphabet : List Sym} {w : Word} {x0 x1 x2 x3 x4 : Byte}

/-- Every encoder output is canonical and decodes to its word (R143 (a)). -/
theorem decGrp_of_encItems (hlen : alphabet.length = 85) (hnodup : alphabet.Nodup)
    (hrange : ∀ c ∈ alphabet, 32 ≤ c.toNat ∧ c.toNat ≤ 126) (h : encItems alphabet w = [x0, x1, x2, x3, x4]) :
    decGrp alphabet x0 x1 x2 x3 x4 = { w := w, bad := false, ovf := false } := by
  have hread (k : Nat) : decLookup alphabet (symItem (encRom alphabet (digit w k))) =
      { valid := true, digit := digit w k } :=
    decLookup_encRom hnodup hrange (hlen ▸ digit_lt w k)
  simp only [encItems, encGrp, digits, List.map_cons, List.map_nil, List.cons.injEq, and_true] at h
  obtain ⟨rfl, rfl, rfl, rfl, rfl⟩ := h
  have hvalue : groupValue alphabet (symItem (encRom alphabet (digit w 4))) (symItem (encRom alphabet (digit w 3)))
      (symItem (encRom alphabet (digit w 2))) (symItem (encRom alphabet (digit w 1)))
      (symItem (encRom alphabet (digit w 0))) = w.toNat := by
    simp only [groupValue, hread]
    exact (value_of_digits rfl).symm
  have hw := w.isLt
  simp only [decGrp, hvalue, hread, BitVec.ofNat_toNat, BitVec.setWidth_eq, Bool.not_true, Bool.or_self,
    GroupResult.mk.injEq, decide_eq_false_iff_not, true_and]
  omega

/-- A canonical group is the encoder's output for its word (R143 (b)). -/
theorem encItems_decGrp (hlen : alphabet.length = 85) (hrange : ∀ c ∈ alphabet, 32 ≤ c.toNat ∧ c.toNat ≤ 126)
    (hbad : (decGrp alphabet x0 x1 x2 x3 x4).bad = false) (hovf : (decGrp alphabet x0 x1 x2 x3 x4).ovf = false) :
    encItems alphabet (decGrp alphabet x0 x1 x2 x3 x4).w = [x0, x1, x2, x3, x4] := by
  have hfits : groupValue alphabet x0 x1 x2 x3 x4 < 2 ^ 32 := by
    rw [← not_le, ← decGrp_ovf_iff, hovf]
    decide
  have hle (x : Byte) : (decLookup alphabet x).digit.toNat ≤ 84 := Nat.le_of_lt_succ (decLookup_digit_lt hlen x)
  have hdigits : digits (decGrp alphabet x0 x1 x2 x3 x4).w =
      [x0, x1, x2, x3, x4].map (fun x => (decLookup alphabet x).digit) := by
    apply List.map_injective_iff.mpr (fun _ _ => BitVec.eq_of_toNat_eq)
    refine digits_of_value (hle x1) (hle x2) (hle x3) (hle x4) ?_
    rw [decGrp_w_toNat, Nat.mod_eq_of_lt hfits, groupValue]
  have hsym (x : Byte) (hx : x ∈ [x0, x1, x2, x3, x4]) :
      symItem (encRom alphabet (decLookup alphabet x).digit) = x :=
    symItem_encRom_decLookup hlen hrange ((decGrp_good_iff ..).mp hbad x hx)
  rw [encItems, encGrp, hdigits, List.map_map, List.map_map]
  exact List.map_congr_left hsym |>.trans (List.map_id _)

/-- The encoder gives back a good group exactly when the group did not overflow (R143 (b), (c)). -/
theorem encItems_decGrp_iff (hlen : alphabet.length = 85) (hnodup : alphabet.Nodup)
    (hrange : ∀ c ∈ alphabet, 32 ≤ c.toNat ∧ c.toNat ≤ 126) (hbad : (decGrp alphabet x0 x1 x2 x3 x4).bad = false) :
    encItems alphabet (decGrp alphabet x0 x1 x2 x3 x4).w = [x0, x1, x2, x3, x4] ↔
      (decGrp alphabet x0 x1 x2 x3 x4).ovf = false :=
  ⟨fun h => congrArg GroupResult.ovf (decGrp_of_encItems hlen hnodup hrange h), encItems_decGrp hlen hrange hbad⟩

end Canonical

/-- Settles O38: the table reads undo each other, and the digits of a word are those of its value. -/
theorem canonicalGroupsAreEncoderOutputs : Obligations.CanonicalGroupsAreEncoderOutputs := by
  intro c ⟨_, _, hlen, hnodup, hrange, _⟩
  refine ⟨fun w x0 x1 x2 x3 x4 h => decGrp_of_encItems hlen hnodup hrange h,
    fun x0 x1 x2 x3 x4 hbad hovf => encItems_decGrp hlen hrange hbad hovf, fun x0 x1 x2 x3 x4 hbad hovf h => ?_⟩
  have hfits := (encItems_decGrp_iff hlen hnodup hrange hbad).mp h
  exact Bool.noConfusion (hovf.symm.trans hfits)

/-! ### Frames of whole groups -/

/-- A frame made of groups of five items (R145). -/
inductive WholeGroups : List Byte → Prop where
  | nil : WholeGroups []
  | group {rest : List Byte} (x0 x1 x2 x3 x4 : Byte) (tail : WholeGroups rest) :
    WholeGroups (x0 :: x1 :: x2 :: x3 :: x4 :: rest)

/-- The frames of whole groups are those that pass the length check of R145. -/
theorem wholeGroups_of_length : ∀ {x : List Byte}, x.length % 5 = 0 → WholeGroups x
  | [], _ => .nil
  | [_], h | [_, _], h | [_, _, _], h | [_, _, _, _], h => by simp at h
  | x0 :: x1 :: x2 :: x3 :: x4 :: rest, h => by
    have htail : rest.length % 5 = 0 := by
      simp only [List.length_cons] at h
      omega
    exact .group x0 x1 x2 x3 x4 (wholeGroups_of_length htail)

/-- One group for every five items (R145). -/
theorem decodeGroups_length (alphabet : List Sym) {x : List Byte} (h : WholeGroups x) :
    5 * (decodeGroups alphabet x).length = x.length := by
  induction h with
  | nil => rfl
  | @group rest x0 x1 x2 x3 x4 tail ih =>
    simp only [decodeGroups, List.length_cons]
    omega

/-- All groups of a frame are good when all its items are items of symbols (R136). -/
theorem decodeGroups_good_iff (alphabet : List Sym) {x : List Byte} (h : WholeGroups x) :
    (∀ g ∈ decodeGroups alphabet x, g.bad = false) ↔ ∀ y ∈ x, (decLookup alphabet y).valid = true := by
  induction h with
  | nil => simp [decodeGroups]
  | @group rest x0 x1 x2 x3 x4 tail ih =>
    simp only [decodeGroups, List.forall_mem_cons, decGrp_good_iff, ih, List.not_mem_nil, false_imp_iff,
      implies_true, and_true, and_assoc]

theorem groupBytes_cons (g : GroupResult) (gs : List GroupResult) :
    groupBytes (g :: gs) = bytesOf g.w ++ groupBytes gs := rfl

/-- Four bytes for every group (R138). -/
theorem groupBytes_length (gs : List GroupResult) : (groupBytes gs).length = 4 * gs.length := by
  induction gs with
  | nil => rfl
  | cons g gs ih =>
    simp only [groupBytes_cons, List.length_append, ih, List.length_cons, bytesOf, List.length_nil]
    omega

theorem groupBytes_append (gs hs : List GroupResult) : groupBytes (gs ++ hs) = groupBytes gs ++ groupBytes hs :=
  List.flatMap_append

/-! ### Z85Decode by its outcome -/

/-- The four outcomes of `Z85Decode` (R145). -/
theorem z85Decode_cases (alphabet : List Sym) (x : List Byte) :
    (x.length = 0 ∧ z85Decode alphabet x = .soft .emptyInput) ∨
    (x.length ≠ 0 ∧ x.length % 5 ≠ 0 ∧ z85Decode alphabet x = .soft .invalidLength) ∨
    (x.length ≠ 0 ∧ x.length % 5 = 0 ∧ ¬ (∀ g ∈ decodeGroups alphabet x, g.bad = false) ∧
      z85Decode alphabet x = .soft .badSymbol) ∨
    (x.length ≠ 0 ∧ x.length % 5 = 0 ∧ (∀ g ∈ decodeGroups alphabet x, g.bad = false) ∧
      z85Decode alphabet x =
        .ok (groupBytes (decodeGroups alphabet x)) ((decodeGroups alphabet x).any (fun g => g.ovf))) := by
  by_cases h0 : x.length = 0
  · exact .inl ⟨h0, by simp only [z85Decode, h0, if_true]⟩
  by_cases h5 : x.length % 5 = 0
  · by_cases hgood : ∀ g ∈ decodeGroups alphabet x, g.bad = false
    · have hany : (decodeGroups alphabet x).any (fun g => g.bad) = false := by simpa using hgood
      exact .inr (.inr (.inr ⟨h0, h5, hgood, by simp [z85Decode, h0, h5, hany]⟩))
    · have hany : (decodeGroups alphabet x).any (fun g => g.bad) = true := by simpa using hgood
      exact .inr (.inr (.inl ⟨h0, h5, hgood, by simp [z85Decode, h0, h5, hany]⟩))
  · exact .inr (.inl ⟨h0, h5, by simp [z85Decode, h0, h5]⟩)

/-- A non-empty frame of whole groups of good symbols decodes to the bytes of its groups (R145). -/
theorem z85Decode_ok_iff {alphabet : List Sym} {x b : List Byte} {o : Bool} :
    z85Decode alphabet x = .ok b o ↔
      x.length ≠ 0 ∧ x.length % 5 = 0 ∧ (∀ g ∈ decodeGroups alphabet x, g.bad = false) ∧
        groupBytes (decodeGroups alphabet x) = b ∧ (decodeGroups alphabet x).any (fun g => g.ovf) = o := by
  rcases z85Decode_cases alphabet x with ⟨h0, e⟩ | ⟨h0, h5, e⟩ | ⟨h0, h5, hbad, e⟩ | ⟨h0, h5, hgood, e⟩
  · simp [e, h0]
  · simp [e, h5]
  · simp only [e, reduceCtorEq, hbad, false_and, and_false]
  · rw [e, FrameResult.ok.injEq, iff_true_intro h0, iff_true_intro h5, iff_true_intro hgood]
    simp only [true_and]

/-! ### The unpadded round trip -/

theorem encodeGroups_bytesOf_append (alphabet : List Sym) (w : Word) (b : List Byte) :
    encodeGroups alphabet (bytesOf w ++ b) = encItems alphabet w ++ encodeGroups alphabet b := by
  rw [← wordOf_of_bytesOf (w := w) rfl, bytesOf_wordOf]
  rfl

/-- A frame begins with a group's symbols when its first five items are those symbols. -/
theorem encItems_append_eq_iff {alphabet : List Sym} {w : Word} {x0 x1 x2 x3 x4 : Byte} {x rest : List Byte} :
    encItems alphabet w ++ x = x0 :: x1 :: x2 :: x3 :: x4 :: rest ↔
      encItems alphabet w = [x0, x1, x2, x3, x4] ∧ x = rest := by
  simp [encItems, encGrp, digits, and_assoc]

section RoundTrip

variable {alphabet : List Sym} (hlen : alphabet.length = 85) (hnodup : alphabet.Nodup)
  (hrange : ∀ c ∈ alphabet, 32 ≤ c.toNat ∧ c.toNat ≤ 126)

include hlen hnodup hrange

/-- The group of an encoder output decodes to its word (R143 (a)). -/
theorem decodeGroups_encItems_append (w : Word) (x : List Byte) :
    decodeGroups alphabet (encItems alphabet w ++ x) =
      { w := w, bad := false, ovf := false } :: decodeGroups alphabet x := by
  obtain ⟨x0, x1, x2, x3, x4, h⟩ : ∃ x0 x1 x2 x3 x4, encItems alphabet w = [x0, x1, x2, x3, x4] :=
    ⟨_, _, _, _, _, rfl⟩
  rw [h, ← decGrp_of_encItems hlen hnodup hrange h]
  rfl

/-- An encoded frame decodes to canonical groups with its bytes (R148). -/
theorem decodeGroups_encodeGroups :
    ∀ b : List Byte, b.length % 4 = 0 →
      groupBytes (decodeGroups alphabet (encodeGroups alphabet b)) = b ∧
        ∀ g ∈ decodeGroups alphabet (encodeGroups alphabet b), g.bad = false ∧ g.ovf = false
  | [], _ => ⟨rfl, by simp [encodeGroups, decodeGroups]⟩
  | [_], h | [_, _], h | [_, _, _], h => by simp at h
  | b0 :: b1 :: b2 :: b3 :: rest, h => by
    obtain ⟨hbytes, hgroups⟩ := decodeGroups_encodeGroups rest (by simp only [List.length_cons] at h; omega)
    rw [encodeGroups, decodeGroups_encItems_append hlen hnodup hrange, groupBytes_cons, bytesOf_wordOf, hbytes]
    exact ⟨rfl, List.forall_mem_cons.mpr ⟨⟨rfl, rfl⟩, hgroups⟩⟩

/-- A frame of good groups is the encoding of its bytes exactly when no group overflowed (R148). -/
theorem encodeGroups_decodeGroups_iff {x : List Byte} (h : WholeGroups x)
    (hgood : ∀ g ∈ decodeGroups alphabet x, g.bad = false) :
    encodeGroups alphabet (groupBytes (decodeGroups alphabet x)) = x ↔
      ∀ g ∈ decodeGroups alphabet x, g.ovf = false := by
  induction h with
  | nil => simp [decodeGroups, groupBytes, encodeGroups]
  | @group rest x0 x1 x2 x3 x4 tail ih =>
    simp only [decodeGroups, List.forall_mem_cons] at hgood ⊢
    obtain ⟨hfirst, hrest⟩ := hgood
    rw [groupBytes_cons, encodeGroups_bytesOf_append, encItems_append_eq_iff,
      encItems_decGrp_iff hlen hnodup hrange hfirst, ih hrest]

end RoundTrip

/-- Settles O40: group by group, from the inverses on canonical groups. -/
theorem unpaddedRoundTrip : Obligations.UnpaddedRoundTrip := by
  intro c ⟨_, _, hlen, hnodup, hrange, _⟩
  refine ⟨fun b h hne => ⟨encodeGroups c.alphabet b, z85Encode_whole h c.alphabet, ?_⟩, rfl, rfl,
    fun x b o hx => ?_⟩
  · obtain ⟨hbytes, hgroups⟩ := decodeGroups_encodeGroups hlen hnodup hrange b h
    have hpos := List.length_pos_iff.mpr hne
    have hsize := encodeGroups_length c.alphabet b
    refine z85Decode_ok_iff.mpr ⟨by omega, by omega, fun g hg => (hgroups g hg).1, hbytes, ?_⟩
    simpa using fun g hg => (hgroups g hg).2
  · obtain ⟨-, h5, hgood, rfl, rfl⟩ := z85Decode_ok_iff.mp hx
    have hwhole : (groupBytes (decodeGroups c.alphabet x)).length % 4 = 0 := by
      rw [groupBytes_length]
      omega
    rw [z85Encode_whole hwhole, FrameResult.ok.injEq, and_iff_left rfl,
      encodeGroups_decodeGroups_iff hlen hnodup hrange (wholeGroups_of_length h5) hgood]
    simp

/-! ### Items outside the alphabet -/

/-- The items 9 to 13 and 32 are items of no symbol: a symbol is printable and not the space (R150; log entry 3). -/
theorem whiteSpace_ne_symItem {alphabet : List Sym} (hrange : ∀ c ∈ alphabet, 32 ≤ c.toNat ∧ c.toNat ≤ 126)
    (hclass : ∀ c ∈ alphabet, isAlnumCode c.toNat ∨ isPunctCode c.toNat) {y : Byte}
    (hy : y ∈ [9#8, 10#8, 11#8, 12#8, 13#8, 32#8]) : ∀ a ∈ alphabet, y ≠ symItem a := by
  rintro a ha rfl
  have hlow : (symItem a).toNat ≤ 32 := by
    have hcode : ∀ z ∈ [9#8, 10#8, 11#8, 12#8, 13#8, 32#8], z.toNat ≤ 32 := by decide
    exact hcode _ hy
  rw [symItem_toNat] at hlow
  have hprintable := hrange a ha
  have hkind := hclass a ha
  omega

/-- An item that no symbol has reads as invalid (R136). -/
theorem decLookup_invalid {alphabet : List Sym} (hrange : ∀ c ∈ alphabet, 32 ≤ c.toNat ∧ c.toNat ≤ 126) {y : Byte}
    (hy : ∀ a ∈ alphabet, y ≠ symItem a) : (decLookup alphabet y).valid = false := by
  rcases decLookup_spec hrange y with ⟨d, hd, hx, -⟩ | ⟨-, e⟩
  · exact absurd hx (hy _ (List.getElem_mem hd))
  · rw [e]

/-- A frame of whole groups with an invalid item is a soft failure (R136, R145). -/
theorem z85Decode_of_invalid {alphabet : List Sym} {x : List Byte} {y : Byte} (h5 : x.length % 5 = 0) (hy : y ∈ x)
    (hv : (decLookup alphabet y).valid = false) : z85Decode alphabet x = .soft .badSymbol := by
  rcases z85Decode_cases alphabet x with ⟨h0, -⟩ | ⟨-, h5', -⟩ | ⟨-, -, -, e⟩ | ⟨-, -, hgood, -⟩
  · rw [List.eq_nil_of_length_eq_zero h0] at hy
    exact absurd hy List.not_mem_nil
  · exact absurd h5 h5'
  · exact e
  · exact absurd ((decodeGroups_good_iff alphabet (wholeGroups_of_length h5)).mp hgood y hy) (by rw [hv]; decide)

/-- A soft failure of the inner decode is one of the padded decode (42_padded_wrapper.md R173). -/
theorem pz85Decode_of_soft {alphabet : List Sym} {x : List Byte} {st : Status}
    (h : z85Decode alphabet x = .soft st) : pz85Decode alphabet x = .soft st := by
  simp only [pz85Decode, h]

/-- Settles O45: such an item reads as invalid, which makes its group bad. -/
theorem itemOutsideTheAlphabetIsBadSymbol : Obligations.ItemOutsideTheAlphabetIsBadSymbol := by
  intro c x y ⟨_, _, _, _, hrange, _, hclass, _⟩ h5 hmem hy
  have houtside : ∀ a ∈ c.alphabet, y ≠ symItem a := hy.elim id (whiteSpace_ne_symItem hrange hclass)
  have hsoft := z85Decode_of_invalid h5 hmem (decLookup_invalid hrange houtside)
  exact ⟨hsoft, pz85Decode_of_soft hsoft⟩

/-! ### What a decode frame delivers -/

/-- The index of the first group with an invalid symbol (R147). -/
def firstBad (alphabet : List Sym) (x : List Byte) : Nat :=
  (decodeGroups alphabet x).findIdx (fun g => g.bad)

theorem firstBad_le (alphabet : List Sym) (x : List Byte) :
    firstBad alphabet x ≤ (decodeGroups alphabet x).length :=
  List.findIdx_le_length

/-- The header byte of a padded frame: the first byte of its inner buffer (42_padded_wrapper.md R173). -/
def frameHeader (alphabet : List Sym) (x : List Byte) : Nat :=
  ((groupBytes (decodeGroups alphabet x)).getD 0 0#8).toNat

/-- The good bytes are those of the groups before the first bad one (R147). -/
theorem goodBytes_eq_take (alphabet : List Sym) (x : List Byte) :
    goodBytes alphabet x = groupBytes ((decodeGroups alphabet x).take (firstBad alphabet x)) := by
  simp only [goodBytes, List.takeWhile_eq_take_findIdx_not, Bool.not_not, firstBad]

theorem goodBytes_length (alphabet : List Sym) (x : List Byte) :
    (goodBytes alphabet x).length = 4 * firstBad alphabet x := by
  rw [goodBytes_eq_take, groupBytes_length, List.length_take, Nat.min_eq_left (firstBad_le alphabet x)]

/-- The header, once a good group precedes every bad one, is that of the good bytes. -/
theorem goodBytes_header {alphabet : List Sym} {x : List Byte} (h : 0 < firstBad alphabet x) :
    ((goodBytes alphabet x).getD 0 0#8).toNat = frameHeader alphabet x := by
  have hsplit : groupBytes (decodeGroups alphabet x) =
      goodBytes alphabet x ++ groupBytes ((decodeGroups alphabet x).drop (firstBad alphabet x)) := by
    rw [goodBytes_eq_take, ← groupBytes_append, List.take_append_drop]
  have hpos : 0 < (goodBytes alphabet x).length := by
    rw [goodBytes_length]
    omega
  rw [frameHeader, hsplit, List.getD_append _ _ _ _ hpos]

/-- Nothing is delivered of a bad padded frame whose first group is bad or whose header is out of range (R175). -/
theorem voidItems_pz85d_nil {alphabet : List Sym} {x : List Byte} (n : Nat)
    (h : firstBad alphabet x = 0 ∨ 4 ≤ frameHeader alphabet x) : voidItems alphabet (.pz85d n) x = [] := by
  rcases Nat.eq_zero_or_pos (firstBad alphabet x) with hk | hk
  · have hnil : goodBytes alphabet x = [] := List.eq_nil_of_length_eq_zero (by rw [goodBytes_length, hk])
    simp [voidItems, hnil]
  · have hp : 4 ≤ frameHeader alphabet x := h.resolve_left hk.ne'
    simp only [voidItems, goodBytes_header hk, hp, if_true]

/-- The good bytes of a bad padded frame are delivered without header and padding (R175). -/
theorem voidItems_pz85d_strip {alphabet : List Sym} {x : List Byte} (n : Nat) (hk : 0 < firstBad alphabet x)
    (hp : frameHeader alphabet x ≤ 3) :
    voidItems alphabet (.pz85d n) x = (goodBytes alphabet x).drop (1 + frameHeader alphabet x) := by
  have hin : ¬ 4 ≤ frameHeader alphabet x := by omega
  simp only [voidItems, goodBytes_header hk, hin, if_false]

section FrameOutcome

variable {alphabet : List Sym} {i : Instr} {f data : List Byte}

theorem frame_of_ok {ovf : Bool} (h : frameResult alphabet i f = .ok data ovf) :
    frameStatus alphabet i f = .ok ∧ frameItems alphabet i f = data := by
  simp only [frameStatus, frameItems, h, and_self]

theorem frame_of_badSymbol (h : frameResult alphabet i f = .soft .badSymbol) :
    frameStatus alphabet i f = .badSymbol ∧ frameItems alphabet i f = voidItems alphabet i f := by
  simp only [frameStatus, frameItems, h, and_self]

/-- Any other soft failure is known before the first group, and nothing is delivered (R200). -/
theorem frame_of_soft {st : Status} (h : frameResult alphabet i f = .soft st) (hst : st ≠ .badSymbol) :
    frameStatus alphabet i f = st ∧ frameItems alphabet i f = [] := by
  cases st <;> simp_all [frameStatus, frameItems]

theorem frame_of_fatal (h : frameResult alphabet i f = .fatal) :
    frameStatus alphabet i f = .outOfRange ∧ frameItems alphabet i f = [] := by
  simp only [frameStatus, frameItems, h, and_self]

end FrameOutcome

/-- What a `Z85D` frame delivers, by its status (R147). -/
theorem z85d_frameItems (alphabet : List Sym) (x : List Byte) (n : Nat) :
    (frameStatus alphabet (.z85d n) x = .ok →
      WholeGroups x ∧ frameItems alphabet (.z85d n) x = groupBytes (decodeGroups alphabet x)) ∧
    (frameStatus alphabet (.z85d n) x = .badSymbol → frameItems alphabet (.z85d n) x = goodBytes alphabet x) ∧
    (frameStatus alphabet (.z85d n) x ≠ .ok → frameStatus alphabet (.z85d n) x ≠ .badSymbol →
      frameItems alphabet (.z85d n) x = []) := by
  rcases z85Decode_cases alphabet x with ⟨-, e⟩ | ⟨-, -, e⟩ | ⟨-, -, -, e⟩ | ⟨-, h5, -, e⟩
  · obtain ⟨hst, hitems⟩ := frame_of_soft (i := .z85d n) e (by decide)
    simp [hst, hitems]
  · obtain ⟨hst, hitems⟩ := frame_of_soft (i := .z85d n) e (by decide)
    simp [hst, hitems]
  · obtain ⟨hst, hitems⟩ := frame_of_badSymbol (i := .z85d n) e
    simp [hst, hitems, voidItems]
  · obtain ⟨hst, hitems⟩ := frame_of_ok (i := .z85d n) e
    simp [hst, hitems, wholeGroups_of_length h5]

/-- A padded decode of an inner buffer, by its header (42_padded_wrapper.md R173). -/
theorem pz85Decode_of_ok {alphabet : List Sym} {x b : List Byte} {o : Bool} (h : z85Decode alphabet x = .ok b o) :
    pz85Decode alphabet x =
      if 4 ≤ (b.getD 0 0#8).toNat then .fatal else .ok (b.drop (1 + (b.getD 0 0#8).toNat)) o := by
  simp only [pz85Decode, h]

/-- What a `PZ85D` frame delivers, by its status (42_padded_wrapper.md R175). -/
theorem pz85d_frameItems (alphabet : List Sym) (x : List Byte) (n : Nat) :
    (frameStatus alphabet (.pz85d n) x = .ok →
      x.length ≠ 0 ∧ WholeGroups x ∧ frameHeader alphabet x ≤ 3 ∧
        frameItems alphabet (.pz85d n) x =
          (groupBytes (decodeGroups alphabet x)).drop (1 + frameHeader alphabet x)) ∧
    (frameStatus alphabet (.pz85d n) x = .badSymbol →
      frameItems alphabet (.pz85d n) x = voidItems alphabet (.pz85d n) x) ∧
    (frameStatus alphabet (.pz85d n) x ≠ .ok → frameStatus alphabet (.pz85d n) x ≠ .badSymbol →
      frameItems alphabet (.pz85d n) x = []) := by
  rcases z85Decode_cases alphabet x with ⟨-, e⟩ | ⟨-, -, e⟩ | ⟨-, -, -, e⟩ | ⟨h0, h5, -, e⟩
  · obtain ⟨hst, hitems⟩ := frame_of_soft (i := .pz85d n) (pz85Decode_of_soft e) (by decide)
    simp [hst, hitems]
  · obtain ⟨hst, hitems⟩ := frame_of_soft (i := .pz85d n) (pz85Decode_of_soft e) (by decide)
    simp [hst, hitems]
  · obtain ⟨hst, hitems⟩ := frame_of_badSymbol (i := .pz85d n) (pz85Decode_of_soft e)
    simp [hst, hitems]
  · have hpad := pz85Decode_of_ok e
    rw [← frameHeader] at hpad
    split at hpad
    next hp =>
      obtain ⟨hst, hitems⟩ := frame_of_fatal (i := .pz85d n) hpad
      simp [hst, hitems]
    next hp =>
      obtain ⟨hst, hitems⟩ := frame_of_ok (i := .pz85d n) hpad
      have hle : frameHeader alphabet x ≤ 3 := by omega
      simp only [hst, hitems, h0, hle, wholeGroups_of_length h5, ne_eq, not_true_eq_false, not_false_eq_true,
        reduceCtorEq, false_imp_iff, and_self, implies_true]

/-- The bytes of a frame of whole groups (R147). -/
theorem decoded_length (alphabet : List Sym) {x : List Byte} (h : WholeGroups x) :
    (groupBytes (decodeGroups alphabet x)).length = x.length * 4 / 5 := by
  have hgroups := decodeGroups_length alphabet h
  rw [groupBytes_length]
  omega

/-- Settles O43: four bytes for every group that counts, less header and padding on a padded frame. -/
theorem decodeLengthLaws : Obligations.DecodeLengthLaws := by
  intro c x n k p
  have hk : k = firstBad c.alphabet x := rfl
  have hp : p = frameHeader c.alphabet x := rfl
  rw [hk, hp]
  obtain ⟨plainOk, plainBad, -⟩ := z85d_frameItems c.alphabet x n
  obtain ⟨paddedOk, paddedBad, -⟩ := pz85d_frameItems c.alphabet x n
  refine ⟨fun h => ?_, fun h => ?_, fun h => ?_, fun h hnone => ?_, fun h hpos hle => ?_, ?_⟩
  · obtain ⟨hx, e⟩ := plainOk h
    rw [e, decoded_length c.alphabet hx]
  · rw [plainBad h, goodBytes_length]
  · obtain ⟨h0, hx, hle, e⟩ := paddedOk h
    have hgroups := decodeGroups_length c.alphabet hx
    refine ⟨hle, ?_⟩
    rw [e, List.length_drop, decoded_length c.alphabet hx]
    omega
  · rw [paddedBad h, voidItems_pz85d_nil n hnone]
  · rw [paddedBad h, voidItems_pz85d_strip n hpos hle, List.length_drop, goodBytes_length]
    omega
  · rintro i ⟨m, rfl | rfl⟩
    · obtain ⟨-, -, hnone⟩ := z85d_frameItems c.alphabet x m
      exact hnone
    · obtain ⟨-, -, hnone⟩ := pz85d_frameItems c.alphabet x m
      exact hnone

end Sys2Proof.Machine

/-! SUPPORT. The padded wrapper: the padding count (42_padded_wrapper.md R160), the byte packer (R162) and the padded
decode of an inner buffer, its strip and its header check (R170 to R176). -/
namespace Sys2Proof.Machine

/-! ### The padding count -/

/-- The padding count as the distance of the payload's last two bits from 3 (R160). -/
theorem padLen_eq_sub (n : Nat) : padLen n = 3 - n % 4 := by
  unfold padLen
  omega

/-- On two bits the distance from 3 is the complement (R160). -/
theorem padLen_two_bits (n : Nat) : BitVec.ofNat 2 (padLen n) = ~~~(BitVec.ofNat 2 n) := by
  apply BitVec.eq_of_toNat_eq
  rw [BitVec.toNat_not, BitVec.toNat_ofNat, BitVec.toNat_ofNat, padLen_eq_sub]
  omega

/-- Settles O32: the three forms agree on each remainder of `n` by 4. -/
theorem paddingCountCompletesTheGroup : Obligations.PaddingCountCompletesTheGroup := by
  intro n
  refine ⟨?_, padLen_eq_sub n, padLen_le n, padLen_completes n, padLen_two_bits n⟩
  rw [padLen_eq_sub]
  split <;> omega

/-- The header byte holds the padding count: it is at most 3, and so fits a byte (R164). -/
theorem padLen_header_toNat (n : Nat) : (BitVec.ofNat 8 (padLen n)).toNat = padLen n := by
  have hle := padLen_le n
  rw [BitVec.toNat_ofNat]
  exact Nat.mod_eq_of_lt (by omega)

/-! ### The packer -/

/-- Before the fourth byte of a group, `PackByte` collects (R162). -/
theorem packByte_collect {s : State} (h : s.packN ≠ 3#2) (b : Byte) : packByte b s =
    { s with packAcc := s.packAcc * 256#32 + b.zeroExtend 32, packN := s.packN + 1#2 } := by
  rcases packByte_cases s b with ⟨-, e⟩ | ⟨h3, -⟩
  · exact e
  · exact absurd h3 h

/-- On the fourth byte of a group, `PackByte` appends the symbols and empties the packer (R162). -/
theorem packByte_complete {s : State} (h : s.packN = 3#2) (b : Byte) : packByte b s =
    { s with packAcc := 0#32, packN := 0#2,
             oq := s.oq ++ encItems s.cfg.alphabet (s.packAcc * 256#32 + b.zeroExtend 32) } := by
  rcases packByte_cases s b with ⟨h3, -⟩ | ⟨-, e⟩
  · exact absurd h h3
  · exact e

/-- A byte shifted in at the low end of a word with room at the top (R162). -/
theorem shiftInByte_toNat {acc : Word} (h : acc.toNat < 2 ^ 24) (b : Byte) :
    (acc * 256#32 + b.zeroExtend 32).toNat = acc.toNat * 256 + b.toNat := by
  have hb := b.isLt
  simp only [BitVec.truncate_eq_setWidth, BitVec.toNat_add, BitVec.toNat_mul, BitVec.toNat_setWidth,
    BitVec.toNat_ofNat]
  omega

/-- Four bytes shifted in one after the other are their big-endian word (R54, R162). -/
theorem shiftInBytes_eq_wordOf (b0 b1 b2 b3 : Byte) :
    (((0#32 * 256#32 + b0.zeroExtend 32) * 256#32 + b1.zeroExtend 32) * 256#32 + b2.zeroExtend 32) * 256#32 +
      b3.zeroExtend 32 = wordOf b0 b1 b2 b3 := by
  have l0 := b0.isLt; have l1 := b1.isLt; have l2 := b2.isLt
  have s0 := shiftInByte_toNat (acc := 0#32) (by simp) b0
  have s1 := shiftInByte_toNat (by rw [s0, BitVec.toNat_zero]; omega) b1
  have s2 := shiftInByte_toNat (by rw [s1, s0, BitVec.toNat_zero]; omega) b2
  have s3 := shiftInByte_toNat (by rw [s2, s1, s0, BitVec.toNat_zero]; omega) b3
  apply BitVec.eq_of_toNat_eq
  rw [wordOf_toNat, s3, s2, s1, s0, BitVec.toNat_zero]
  omega

/-- Settles O36: three bytes are collected, and the fourth hands over their word. -/
theorem fourBytesPackOneGroup : Obligations.FourBytesPackOneGroup := by
  intro s b0 b1 b2 b3 hacc hn
  have h0 : s.packN ≠ 3#2 := by rw [hn]; decide
  have h1 : s.packN + 1#2 ≠ 3#2 := by rw [hn]; decide
  have h2 : s.packN + 1#2 + 1#2 ≠ 3#2 := by rw [hn]; decide
  have h3 : s.packN + 1#2 + 1#2 + 1#2 = 3#2 := by rw [hn]; decide
  rw [packByte_collect h0 b0, packByte_collect h1 b1, packByte_collect h2 b2, packByte_complete h3 b3]
  simp only [hacc, shiftInBytes_eq_wordOf]
  rw [← hacc, ← hn]

/-! ### The strip and the round trip -/

/-- What a legal encode gives for a frame that is not empty decodes to the frame (41_base85_decoder.md R148). -/
theorem z85Decode_of_z85Encode {c : Config} (hc : c.Legal) {b x : List Byte} (hne : b ≠ [])
    (h : z85Encode c.alphabet b = .ok x false) : z85Decode c.alphabet x = .ok b false := by
  obtain ⟨roundTrip, -⟩ := unpaddedRoundTrip c hc
  by_cases hwhole : b.length % 4 = 0
  · obtain ⟨y, henc, hdec⟩ := roundTrip b hwhole hne
    rw [h, FrameResult.ok.injEq] at henc
    obtain ⟨rfl, -⟩ := henc
    exact hdec
  · rw [z85Encode_partial hwhole] at h
    exact FrameResult.noConfusion h

/-- A header of 0 to 3 and as many bytes after it are dropped from the inner buffer (R171, R172). -/
theorem pz85Decode_strip {alphabet : List Sym} {x pad payload : List Byte} {h : Byte} {o : Bool}
    (hle : h.toNat ≤ 3) (hpad : pad.length = h.toNat)
    (hdec : z85Decode alphabet x = .ok ([h] ++ pad ++ payload) o) : pz85Decode alphabet x = .ok payload o := by
  have hin : ¬ 4 ≤ h.toNat := by omega
  have hhead : ([h] ++ pad ++ payload).getD 0 0#8 = h := rfl
  have hdropped : ([h] ++ pad).length = 1 + h.toNat := by rw [List.length_append, hpad, List.length_singleton]
  rw [pz85Decode_of_ok hdec, hhead, if_neg hin, List.drop_left' hdropped]

/-- Settles O47: the padding bytes come back from the decode, and the strip counts them without reading them. -/
theorem paddingBytesAreNotChecked : Obligations.PaddingBytesAreNotChecked :=
  fun _ _ _ _ _ hc hle hpad henc => pz85Decode_strip hle hpad (z85Decode_of_z85Encode hc (by simp) henc)

/-- A padded encoding decodes to the inner buffer (R164, R165). -/
theorem z85Decode_of_pz85Encode {c : Config} (hc : c.Legal) {b x : List Byte}
    (h : pz85Encode c.alphabet b = .ok x false) : z85Decode c.alphabet x = .ok (inner b) false :=
  z85Decode_of_z85Encode hc (by simp [inner]) h

/-- The strip of an inner buffer leaves its payload (R176). -/
theorem pz85Decode_of_pz85Encode {c : Config} (hc : c.Legal) {b x : List Byte}
    (h : pz85Encode c.alphabet b = .ok x false) : pz85Decode c.alphabet x = .ok b false := by
  have hheader := padLen_header_toNat b.length
  refine pz85Decode_strip ?_ ?_ (z85Decode_of_pz85Encode hc h)
  · rw [hheader]
    exact padLen_le b.length
  · rw [hheader, List.length_replicate]

/-- Settles O41: the inner buffer is never empty, so the unpadded round trip holds of it, and the strip undoes
header and padding. -/
theorem paddedRoundTrip : Obligations.PaddedRoundTrip := by
  intro c hc
  refine ⟨fun b => ?_, fun x b o hdec henc => ?_⟩
  · have henc := pz85Encode_eq c.alphabet b
    exact ⟨_, henc, pz85Decode_of_pz85Encode hc henc⟩
  · have hback := pz85Decode_of_pz85Encode hc henc
    rw [hdec, FrameResult.ok.injEq] at hback
    obtain ⟨-, ho⟩ := hback
    exact ⟨ho, z85Decode_of_pz85Encode hc henc⟩

/-! ### The fatal header -/

/-- An item reads as valid exactly when it is the item of a symbol (41_base85_decoder.md R136). -/
theorem decLookup_valid_iff {alphabet : List Sym} (hrange : ∀ c ∈ alphabet, 32 ≤ c.toNat ∧ c.toNat ≤ 126)
    (y : Byte) : (decLookup alphabet y).valid = true ↔ ∃ a ∈ alphabet, y = symItem a := by
  rcases decLookup_spec hrange y with ⟨d, hd, hy, e⟩ | ⟨hnone, e⟩ <;> rw [e]
  · exact iff_of_true rfl ⟨_, List.getElem_mem hd, hy⟩
  · exact iff_of_false (by decide) fun ⟨a, ha, hy⟩ => hnone a ha hy

/-- The first byte of a word is its quotient by `2^24` (20_memory.md R54). -/
theorem headerOf_toNat (w : Word) : (headerOf w).toNat = w.toNat / 2 ^ 24 := by
  have hw := w.isLt
  rw [headerOf, BitVec.extractLsb'_toNat, Nat.shiftRight_eq_div_pow]
  exact Nat.mod_eq_of_lt (by omega)

/-- The header of a padded frame is the first byte of its first group's word (R170). -/
theorem frameHeader_of_cons {alphabet : List Sym} {x : List Byte} {g : GroupResult} {gs : List GroupResult}
    (h : decodeGroups alphabet x = g :: gs) : frameHeader alphabet x = g.w.toNat / 2 ^ 24 := by
  rw [frameHeader, h, ← headerOf_toNat]
  rfl

/-- A non-empty frame of whole groups has a first group, whose first byte is the frame's header (R170). -/
theorem frameHeader_ge_iff {alphabet : List Sym} {x : List Byte} (h0 : x.length ≠ 0) (hx : WholeGroups x) (p : Nat) :
    p ≤ frameHeader alphabet x ↔ ∃ g gs, decodeGroups alphabet x = g :: gs ∧ p ≤ g.w.toNat / 2 ^ 24 := by
  cases hgroups : decodeGroups alphabet x with
  | nil =>
    have hcount := decodeGroups_length alphabet hx
    rw [hgroups, List.length_nil] at hcount
    exact absurd hcount.symm h0
  | cons g gs =>
    rw [frameHeader_of_cons hgroups]
    refine ⟨fun hp => ⟨g, gs, rfl, hp⟩, ?_⟩
    rintro ⟨g', gs', heq, hp⟩
    obtain ⟨rfl, -⟩ := List.cons.inj heq
    exact hp

/-- A padded decode is fatal when its inner decode succeeds and the header is 4 or more (R173). -/
theorem pz85Decode_fatal_iff (alphabet : List Sym) (x : List Byte) :
    pz85Decode alphabet x = .fatal ↔
      x.length ≠ 0 ∧ x.length % 5 = 0 ∧ (∀ g ∈ decodeGroups alphabet x, g.bad = false) ∧
        4 ≤ frameHeader alphabet x := by
  rcases z85Decode_cases alphabet x with ⟨h0, e⟩ | ⟨-, h5, e⟩ | ⟨-, -, hbad, e⟩ | ⟨h0, h5, hgood, e⟩
  · simp [pz85Decode_of_soft e, h0]
  · simp [pz85Decode_of_soft e, h5]
  · simp only [pz85Decode_of_soft e, reduceCtorEq, hbad, false_and, and_false]
  · rw [pz85Decode_of_ok e, ← frameHeader]
    split
    next hp => exact iff_of_true rfl ⟨h0, h5, hgood, hp⟩
    next hp => exact iff_of_false (by simp) fun ⟨_, _, _, hge⟩ => hp hge

/-- Settles O46: the header is looked at only after the whole frame has passed the length and symbol checks. -/
theorem fatalNeedsAGoodFrameWithABadHeader : Obligations.FatalNeedsAGoodFrameWithABadHeader := by
  intro c x ⟨_, _, _, _, hrange, _⟩
  rw [pz85Decode_fatal_iff]
  refine and_congr_right fun h0 => and_congr_right fun h5 => ?_
  have hx := wholeGroups_of_length h5
  rw [decodeGroups_good_iff c.alphabet hx, frameHeader_ge_iff h0 hx]
  simp only [decLookup_valid_iff hrange]

end Sys2Proof.Machine

/-! SUPPORT. Single steps (43_core_control.md R190 to R210): each turn of a command as one update of the state, the
turns that pass, HALT (R218), and which steps exclude each other (R214). -/
namespace Sys2Proof.Machine

/-! ### The step and the command that it runs -/

/-- On the turns of a frame the command in the registers does its work (R191). -/
theorem exec_own {i : Instr} {s : State} (hop : s.opR = i.op) (hlen : s.lenR = i.len) (hcmd : turn s ≠ .cmd)
    (hreset : turn s ≠ .reset) : exec i s = .next (passTurn (workStep (turn s) s)) := by
  rw [exec_eq_runCommand, ← hop, ← hlen, runCommand_own hreset hcmd]

/-- On the turns of a frame every other command waits (R191; log entry 7). -/
theorem exec_foreign {i : Instr} {s : State} (h : ¬ (s.opR = i.op ∧ s.lenR = i.len)) (hcmd : turn s ≠ .cmd)
    (hreset : turn s ≠ .reset) : exec i s = .next (passTurn s) := by
  rw [exec_eq_runCommand]
  cases ht : turn s with
  | cmd => exact absurd ht hcmd
  | reset => exact absurd ht hreset
  | pfx | inp | out | done => simp only [runCommand, ht, if_neg h]

/-- The turn of a step that has nothing to do passes, whosever turn it is. -/
theorem exec_passes {i : Instr} {s : State} (hcmd : turn s ≠ .cmd) (hreset : turn s ≠ .reset)
    (h : workStep (turn s) s = s) : exec i s = .next (passTurn s) := by
  by_cases hown : s.opR = i.op ∧ s.lenR = i.len
  · obtain ⟨hop, hlen⟩ := hown
    rw [exec_own hop hlen hcmd hreset, h]
  · exact exec_foreign hown hcmd hreset

/-- Outside a frame no step but CMD and RESET does anything (R191, R218). -/
theorem workStep_of_not_busy {s : State} (hst : s.st ≠ .busy) (hoq : s.oq = []) (t : Turn) : workStep t s = s := by
  cases t with
  | pfx | inp | done => simp [workStep, canPrefix, canIn, canDone, hst]
  | out => simp [workStep, canOut, hoq]
  | cmd | reset => rfl

/-- Settles O4: a CMD turn runs what the port decodes to, every other turn what the registers hold. -/
theorem stepRunsTheDecodedCommand : Obligations.StepRunsTheDecodedCommand := by
  have accepts (i : Instr) (s : State) (w : Nat) (ws : List Nat) (hst : s.st = .idle) (ht : turn s = .cmd)
      (hc : s.cmdCh = w :: ws) (hd : decode s.cfg.lenw w = .ok i) : step s = exec i s := by
    rw [step_accepts hst ht hc hd, exec_accepts i hst ht]
  refine ⟨accepts, fun i s ws hst ht hwf hc => ?_, fun i s hop hlen hcmd hreset => ?_, fun s ht hst hc => ?_⟩
  · exact accepts i s _ ws hst ht hc (decode_encode (wellFormed_iff.mp hwf))
  · have hidle : ¬ TakesCommand s := fun ⟨ht, _⟩ => hcmd ht
    rw [step_work hreset hidle, exec_own hop hlen hcmd hreset]
  · have hidle : ¬ TakesCommand s := fun ⟨_, _, hne⟩ => hne hc
    rw [step_work (by simp [ht]) hidle, ht]
    rfl

/-- The three kinds of step: RESET, work on the frame in progress, and the taking of the number on the port, which is
accepted or refused. -/
theorem step_kinds (s : State) :
    (turn s = .reset ∧ step s = .next (passTurn (resetStep s))) ∨
    (turn s ≠ .reset ∧ ¬ TakesCommand s ∧ step s = .next (passTurn (workStep (turn s) s))) ∨
    (∃ w ws, ∃ i : Instr, TakesCommand s ∧ s.cmdCh = w :: ws ∧ w < 2 ^ (s.cfg.lenw + 3) ∧
      step s = .next (passTurn (takeCommand (cmdStep i.op i.len s)))) ∨
    (∃ w ws, TakesCommand s ∧ s.cmdCh = w :: ws ∧ 2 ^ (s.cfg.lenw + 3) ≤ w ∧
      step s = .refused .commandTooWide) := by
  by_cases hr : turn s = .reset
  · exact .inl ⟨hr, step_reset hr⟩
  by_cases htake : TakesCommand s
  · obtain ⟨ht, hst, hne⟩ := htake
    obtain ⟨w, ws, hc⟩ := List.exists_cons_of_ne_nil hne
    cases hd : decode s.cfg.lenw w with
    | ok i =>
      obtain ⟨hw, -⟩ := decode_eq_ok_iff.mp hd
      exact .inr (.inr (.inl ⟨w, ws, i, ⟨ht, hst, hne⟩, hc, hw, step_accepts hst ht hc hd⟩))
    | error e =>
      exact .inr (.inr (.inr ⟨w, ws, ⟨ht, hst, hne⟩, hc, decode_eq_error_iff.mp hd, step_refuses hst ht hc hd⟩))
  · exact .inr (.inl ⟨hr, htake, step_work hr htake⟩)

/-- Settles O5: only the taking of a number that is no command word has no next state. -/
theorem stepIsTotalOnCommandWords : Obligations.StepIsTotalOnCommandWords := by
  refine ⟨fun s => ?_, fun s => ⟨fun h => ?_, ?_⟩⟩
  · rcases step_kinds s with ⟨-, e⟩ | ⟨-, -, e⟩ | ⟨w, ws, i, -, -, -, e⟩ | ⟨w, ws, -, -, -, e⟩
    · exact .inl ⟨_, e⟩
    · exact .inl ⟨_, e⟩
    · exact .inl ⟨_, e⟩
    · exact .inr e
  · rcases step_kinds s with ⟨-, e⟩ | ⟨-, -, e⟩ | ⟨w, ws, i, -, -, -, e⟩ | ⟨w, ws, ⟨ht, hst, -⟩, hc, hw, -⟩
    · cases e.symm.trans h
    · cases e.symm.trans h
    · cases e.symm.trans h
    · exact ⟨ht, hst, w, ws, hc, hw⟩
  · rintro ⟨ht, hst, w, ws, hc, hw⟩
    exact step_refuses hst ht hc (decode_eq_error_iff.mpr hw)

/-! ### CMD, and the turns that pass -/

/-- Settles O6 by the CMD step of any command. -/
theorem idleCoreAcceptsEveryCommand : Obligations.IdleCoreAcceptsEveryCommand := by
  intro i s hst ht
  have hpre : BitVec.ofNat 3 (prefixCount i.op i.len) =
      if i.op = 2#3 then BitVec.ofNat 3 (1 + padLen i.len) else 0#3 := by
    rw [prefixCount]
    split <;> rfl
  rw [exec_accepts i hst ht, ← hpre]
  rfl

/-- Settles O7: the CMD turn passes unless the core is in IDLE. -/
theorem commandWaitsOutsideIdle : Obligations.CommandWaitsOutsideIdle := by
  refine ⟨canCmd_iff, fun rst s h => ?_, fun i s hst ht => ⟨?_, ?_⟩⟩
  · have hready : (!rst && canCmd s) = true := h
    exact (canCmd_iff s).mp (Bool.and_eq_true_iff.mp hready).2
  · have hcan : ¬ canCmd s = true := fun h => hst ((canCmd_iff s).mp h)
    rw [exec_eq_runCommand, runCommand, ht]
    exact congrArg Host.Outcome.next (if_neg hcan)
  · have hidle : ¬ TakesCommand s := fun ⟨_, h, _⟩ => hst h
    rw [step_work (by simp [ht]) hidle, ht]
    rfl

/-- Settles O8: in each case the turn has no work to do, or it is another command's. -/
theorem turnWithoutBeatChangesNothing : Obligations.TurnWithoutBeatChangesNothing := by
  intro i s h
  have passes {t : Turn} (ht : turn s = t) (hcmd : t ≠ .cmd) (hreset : t ≠ .reset) (hw : workStep t s = s) :
      exec i s = .next (passTurn s) := exec_passes (ht ▸ hcmd) (ht ▸ hreset) (ht ▸ hw)
  rcases h with ⟨ht, h⟩ | ⟨ht, h⟩ | ⟨ht, h⟩ | ⟨ht, h⟩ | ⟨ht, h⟩ | ⟨hcmd, hreset, h⟩
  · exact passes ht (by decide) (by decide) (if_neg (mt (canPrefix_iff s).mp h))
  · exact passes ht (by decide) (by decide) (if_neg (mt (canIn_iff s).mp h))
  · refine passes ht (by decide) (by decide) ?_
    rw [workStep, takeItem_nil h, ite_self]
  · exact passes ht (by decide) (by decide) (if_neg (mt (canOut_iff s).mp (not_not_intro h)))
  · exact passes ht (by decide) (by decide) (if_neg (mt (canDone_iff s).mp h))
  · exact exec_foreign h hcmd hreset

/-! ### HALT -/

theorem turn_ne_reset {s : State} (h : NoReset s) : turn s ≠ .reset := by
  cases hs : s.sched with
  | nil =>
    rw [turn_of_nil s hs]
    exact eagerTurn_ne_reset s
  | cons t ts =>
    rw [turn_of_sched s hs]
    exact h t (by simp [hs])

/-- In HALT with an empty queue only the schedule moves on (R218). -/
theorem runs_of_halt {s : State} (hst : s.st = .halt) (hoq : s.oq = []) (hr : NoReset s) (k : Nat) :
    runs k s = .next { s with sched := s.sched.drop k } := by
  induction k generalizing s with
  | zero => rfl
  | succ k ih =>
    have hidle : ¬ TakesCommand s := fun ⟨_, h, _⟩ => nomatch hst.symm.trans h
    have hstep : step s = .next (passTurn s) := by
      rw [step_work (turn_ne_reset hr) hidle, workStep_of_not_busy (by simp [hst]) hoq]
    rw [runs_of_step hstep, ih (s := passTurn s) hst hoq fun t ht => hr t (List.mem_of_mem_tail ht)]
    simp [passTurn]

/-- Settles O19: in HALT with an empty queue a step has no work to do, and no command is taken. -/
theorem haltIsLeftByResetOnly : Obligations.HaltIsLeftByResetOnly := by
  refine fun s hst hoq => ⟨fun k hr => runs_of_halt hst hoq hr k, fun rst => ?_⟩
  simp [outputPins, canCmd, canIn, canOut, canDone, fatalPin, hst, hoq]

/-! ### The working turns -/

section Work

variable {i : Instr} {s : State}

theorem exec_prefix (hop : s.opR = i.op) (hlen : s.lenR = i.len) (ht : turn s = .pfx) (hc : canPrefix s = true) :
    exec i s = .next (passTurn (prefixStep s)) := by
  rw [exec_own hop hlen (by simp [ht]) (by simp [ht]), ht]
  exact congrArg (fun u => Host.Outcome.next (passTurn u)) (if_pos hc)

theorem exec_in {x : Byte} {rest : List Byte} (hop : s.opR = i.op) (hlen : s.lenR = i.len) (ht : turn s = .inp)
    (hc : canIn s = true) (hin : s.inCh = x :: rest) :
    exec i s = .next (passTurn (inStep x { s with inCh := rest })) := by
  rw [exec_own hop hlen (by simp [ht]) (by simp [ht]), ht, ← takeItem_cons s hin]
  exact congrArg (fun u => Host.Outcome.next (passTurn u)) (if_pos hc)

theorem exec_out (hop : s.opR = i.op) (hlen : s.lenR = i.len) (ht : turn s = .out) (hc : canOut s = true) :
    exec i s = .next (passTurn (outStep s)) := by
  rw [exec_own hop hlen (by simp [ht]) (by simp [ht]), ht]
  exact congrArg (fun u => Host.Outcome.next (passTurn u)) (if_pos hc)

theorem exec_done (hop : s.opR = i.op) (hlen : s.lenR = i.len) (ht : turn s = .done) (hc : canDone s = true) :
    exec i s = .next (passTurn (doneStep s)) := by
  rw [exec_own hop hlen (by simp [ht]) (by simp [ht]), ht]
  exact congrArg (fun u => Host.Outcome.next (passTurn u)) (if_pos hc)

end Work

/-- The symbols of a word as the table entries of its base-85 digits (R101, R104). -/
theorem encItems_eq_map (alphabet : List Sym) (w : Word) : encItems alphabet w =
    [85 ^ 4, 85 ^ 3, 85 ^ 2, 85, 1].map (fun p => (alphabet.getD (w.toNat / p % 85) 0#7).zeroExtend 8) := by
  simp only [encItems, encGrp, digits, List.map_cons, List.map_nil, encRom, digit_toNat, symItem, pow_one, pow_zero]

/-- Settles O9: the PREFIX turn is `PackByte` of the byte that is due. -/
theorem prefixStepFeedsHeaderThenZeros : Obligations.PrefixStepFeedsHeaderThenZeros := by
  intro len s hbusy hop hlen ht hpre hroom b t
  have hexec := exec_prefix (i := .pz85e len) hop hlen ht ((canPrefix_iff s).mpr ⟨hbusy, hpre, hroom⟩)
  have hb : prefixByte s = b := by rw [prefixByte, hlen]
  rw [hexec, prefixStep, hb]
  refine ⟨fun hn => ?_, fun hn => ?_⟩
  · rw [packByte_collect (s := { s with preN := s.preN - 1#3 }) hn]
    rfl
  · rw [packByte_complete (s := { s with preN := s.preN - 1#3 }) hn, ← encItems_eq_map]
    rfl

/-- Settles O10: the IN turn of an encode command is `PackByte` of the item. -/
theorem encodeInputPacksAndEmitsGroups : Obligations.EncodeInputPacksAndEmitsGroups := by
  intro len i s x rest hi hbusy hop hlen ht hin hpre hlt hroom he t
  have hlen' : s.lenR = i.len := by rcases hi with rfl | rfl | rfl <;> exact hlen
  have hd : i.op[0] = false := by rcases hi with rfl | rfl | rfl <;> simp
  have hexec := exec_in hop hlen' ht ((canIn_iff s).mpr ⟨hbusy, hpre, by rw [hop, hlen]; exact hlt, hroom⟩) hin
  rw [hexec, inStep_encode { s with inCh := rest } x (by rw [hop, hlen]; exact he) (by rw [hop]; exact hd)]
  refine ⟨fun hn => ?_, fun hn => ?_⟩
  · rw [packByte_collect (s := { s with inCh := rest, inCnt := s.inCnt + 1 }) hn]
    rfl
  · rw [packByte_complete (s := { s with inCh := rest, inCnt := s.inCnt + 1 }) hn, ← encItems_eq_map]
    rfl

/-- The IN turn of a decode command is `DecSym` of the item (R203). -/
theorem exec_in_decode {len : Nat} {i : Instr} {s : State} {x : Byte} {rest : List Byte}
    (hi : i = .z85d len ∨ i = .pz85d len ∨ i = .decg len) (hop : s.opR = i.op) (hlen : s.lenR = len)
    (ht : turn s = .inp) (hc : canIn s = true) (hin : s.inCh = x :: rest) (he : early i.op len = none) :
    exec i s = .next (passTurn (decSym x { s with inCh := rest, inCnt := s.inCnt + 1 })) := by
  have hlen' : s.lenR = i.len := by rcases hi with rfl | rfl | rfl <;> exact hlen
  have hd : i.op[0] = true := by rcases hi with rfl | rfl | rfl <;> simp
  rw [exec_in hop hlen' ht hc hin,
    inStep_decode { s with inCh := rest } x (by rw [hop, hlen]; exact he) (by rw [hop]; exact hd)]

/-- Settles O11: before the fifth symbol `DecSym` collects. -/
theorem decodeInputAccumulates : Obligations.DecodeInputAccumulates := by
  intro len i s x rest hi hbusy hop hlen ht hin hpre hlt hroom he hn e t
  have hc : canIn s = true := (canIn_iff s).mpr ⟨hbusy, hpre, by rw [hop, hlen]; exact hlt, hroom⟩
  rw [exec_in_decode hi hop hlen ht hc hin he,
    decSym_collect { s with inCh := rest, inCnt := s.inCnt + 1 } x hn]
  rfl

/-- `GroupOut` as one update of the state, with the group's header test and header byte given (R170, R171, R205,
R206). -/
theorem groupOut_eq {s : State} {w : Word} {b header : Bool} {p : Nat} (o : Bool)
    (hheader : carriesHeader s.opR s.firstGrp b = header) (hp : (headerOf w).toNat = p) :
    groupOut w b o s = { s with
      badR := s.badR || b, ovfR := s.ovfR || o, oor := s.oor || (header && decide (4 ≤ p)), firstGrp := false
      oq := s.oq ++ (if (s.badR || b) = false ∧ (s.oor || (header && decide (4 ≤ p))) = false then
        (bytesOf w).drop (if header = true ∧ p < 4 then 1 + p else 0) else []) } := by
  cases header <;> simp [groupOut, headerOutOfRange, enqueue, hheader, hp]

/-- Settles O12: the fifth symbol hands the group to `GroupOut`, whose header is the top byte of the word. -/
theorem decodeGroupCompletionChecksAndEmits : Obligations.DecodeGroupCompletionChecksAndEmits := by
  intro len i s x rest hi hbusy hop hlen ht hin hpre hlt hroom he hn e t w b header p bad' oor' skip
  have hc : canIn s = true := (canIn_iff s).mpr ⟨hbusy, hpre, by rw [hop, hlen]; exact hlt, hroom⟩
  have hp : (headerOf w).toNat = p := by
    rw [headerOf_toNat, BitVec.toNat_ofNat]
    omega
  have hheader : carriesHeader s.opR s.firstGrp b = header := by
    rcases hi with rfl | rfl | rfl <;> simp [carriesHeader, header, hop, Instr.op]
  rw [exec_in_decode hi hop hlen ht hc hin he,
    decSym_complete { s with inCh := rest, inCnt := s.inCnt + 1 } x hn]
  have hgroup := groupOut_eq (s := { s with
    inCnt := s.inCnt + 1, inCh := rest, decAcc := 0#32, decN := 0#3, decBad := false, decOvf := false })
    (s.decOvf || decide (2 ^ 32 ≤ t)) hheader hp
  exact congrArg (fun u => Host.Outcome.next (passTurn u)) hgroup

/-- Settles O13: of the early failures only the wrong length leaves items to discard. -/
theorem earlyFailureDiscardsInput : Obligations.EarlyFailureDiscardsInput := by
  refine ⟨fun i s x rest hbusy hop hlen ht hin hpre hlt hroom he => ?_, fun i he hneed => ?_⟩
  · have hc : canIn s = true := (canIn_iff s).mpr ⟨hbusy, hpre, by rw [hop, hlen]; exact hlt, hroom⟩
    rw [exec_in hop hlen ht hc hin, inStep_discard { s with inCh := rest } x (by rw [hop, hlen]; exact he)]
    rfl
  · cases i with
    | z85e n =>
      have hlen : n % 4 ≠ 0 := by simpa [early, Instr.op, Instr.len] using he
      simp [early, Instr.op, Instr.len, hlen]
    | z85d n | pz85d n =>
      have hpos : n ≠ 0 := by simpa [need, Instr.op, Instr.len, Nat.pos_iff_ne_zero] using hneed
      have hlen : n % 5 ≠ 0 := by simpa [early, Instr.op, Instr.len, hpos] using he
      simp [early, Instr.op, Instr.len, hpos, hlen]
    | pz85e n | encg n | decg n => simp [early, Instr.op] at he
    | op6 n | op7 n => simp [need, Instr.op] at hneed

/-- Settles O14 by the OUT step; a queue outside a frame is empty by R37 (a). -/
theorem outStepDeliversTheHead : Obligations.OutStepDeliversTheHead := by
  refine ⟨fun i s y rest hop hlen ht hoq => ?_, canOut_iff, fun rst s h => ?_, fun s hi => hi.busy_of_queued⟩
  · rw [exec_out hop hlen ht ((canOut_iff s).mpr (by simp [hoq])), outStep_cons s hoq]
    rfl
  · have hvalid : (!rst && canOut s) = true := h
    exact ⟨(canOut_iff s).mp (Bool.and_eq_true_iff.mp hvalid).2, if_pos hvalid⟩

/-- Settles O15 by the DONE step; the overflow flag of such a frame stays 0 by the invariants. -/
theorem doneStepReportsTheStatus : Obligations.DoneStepReportsTheStatus := by
  refine ⟨?_, canDone_iff, fun rst s h => ?_, fun i s hi hop hlen hkind => ?_⟩
  · intro i s hbusy hop hlen ht hpre hcnt hoq status
    have hc : canDone s = true := (canDone_iff s).mpr ⟨hbusy, hpre, by rw [hop, hlen]; exact hcnt, hoq⟩
    have hword : doneWord s = { status := status, ovf := s.ovfR } := by
      rw [doneWord, doneStatus, hop, hlen]
      cases he : early i.op i.len <;> simp [status, he]
    rw [exec_done hop hlen ht hc]
    rcases doneStep_cases s with ⟨hst, e⟩ | ⟨hst, e⟩ <;> rw [hword] at hst e
    · have hst' : status = .outOfRange := hst
      rw [e, if_pos hst']
      rfl
    · have hst' : status ≠ .outOfRange := hst
      rw [e, if_neg hst']
      rfl
  · have hvalid : (!rst && canDone s) = true := h
    exact (Bool.and_eq_true_iff.mp hvalid).2
  · obtain ⟨-, -, hdec, -⟩ := hi.idle
    have hside : s.opR[0] = false ∨ early s.opR s.lenR ≠ none := by
      rw [hop, hlen]
      refine hkind.imp_left ?_
      rintro ⟨n, rfl | rfl | rfl⟩ <;> simp
    obtain ⟨-, -, -, -, hovf, -⟩ := hdec hside
    exact hovf

/-! ### Which steps exclude each other -/

/-- What only appends to the queue leaves the items in it. -/
theorem DatapathOnly.oq_ne_nil {s t : State} (h : DatapathOnly s t) (hq : s.oq ≠ []) : t.oq ≠ [] := by
  obtain ⟨new, -, e⟩ := h.oq
  simp [e, hq]

section Exclusion

variable {s : State}

/-- Without a frame in progress nothing works on one (R197, R199, R209). -/
theorem disabled_of_not_busy (hst : s.st ≠ .busy) :
    canPrefix s = false ∧ canIn s = false ∧ canDone s = false := by
  simp [canPrefix, canIn, canDone, hst]

/-- IN and DONE wait for the PREFIX steps (R199, R209). -/
theorem disabled_of_canPrefix (h : canPrefix s = true) : canIn s = false ∧ canDone s = false := by
  obtain ⟨-, hpre, -⟩ := (canPrefix_iff s).mp h
  simp [canIn, canDone, hpre]

/-- DONE waits for all items (R209). -/
theorem canDone_eq_false_of_canIn (h : canIn s = true) : canDone s = false := by
  obtain ⟨-, -, hlt, -⟩ := (canIn_iff s).mp h
  simp [canDone, hlt.ne]

/-- DONE waits for the queue to be empty (R209). -/
theorem canOut_eq_false_of_canDone (h : canDone s = true) : canOut s = false := by
  obtain ⟨-, -, -, hoq⟩ := (canDone_iff s).mp h
  simp [canOut, hoq]

/-- Outside a frame the queue is empty (R37 (a)). -/
theorem canOut_eq_false_of_not_busy (hi : Inv s) (hst : s.st ≠ .busy) : canOut s = false := by
  obtain ⟨hoq, -⟩ := hi.a hst
  simp [canOut, hoq]

end Exclusion

/-- Settles O22: OUT takes from the one end of the queue what PREFIX and IN append to the other; the conditions of
the rest exclude each other. -/
theorem enabledStepsCommute : Obligations.EnabledStepsCommute := by
  refine ⟨fun x s hq => outStep_inStep hq x, fun s => outStep_prefixStep,
    fun s => ⟨canIn_outStep, canPrefix_outStep⟩, fun x s h => ?_, fun s hi => ?_⟩
  · have hq := (canOut_iff s).mp h
    exact ⟨(canOut_iff _).mpr ((inStep_datapathOnly x s).oq_ne_nil hq),
      (canOut_iff _).mpr ((prefixStep_datapathOnly s).oq_ne_nil hq)⟩
  · refine ⟨fun h => ?_, disabled_of_canPrefix, canDone_eq_false_of_canIn, canOut_eq_false_of_canDone, fun hst => ?_⟩
    · have hst : s.st ≠ .busy := by simp [(canCmd_iff s).mp h]
      obtain ⟨hpfx, hin, hdone⟩ := disabled_of_not_busy hst
      exact ⟨hpfx, hin, hdone, canOut_eq_false_of_not_busy hi hst⟩
    · have hne : s.st ≠ .busy := by simp [hst]
      obtain ⟨hpfx, hin, hdone⟩ := disabled_of_not_busy hne
      exact ⟨by simp [canCmd, hst], hpfx, hin, hdone, canOut_eq_false_of_not_busy hi hne⟩

end Sys2Proof.Machine

/-! SUPPORT. A whole frame from its single steps (43_core_control.md R193, R213 to R216): whatever the order of the
PREFIX, IN and OUT steps, the frame ends in the same state, and that state has delivered the frame-level result. -/
namespace Sys2Proof.Machine

/-! ### Feeding the datapath

PREFIX and IN feed the datapath, which reads neither the item count nor the items offered nor the schedule. -/

/-- `s` with another item count, other items offered and another schedule. -/
def withInput (n : Nat) (c : List Byte) (ts : List Turn) (s : State) : State :=
  { s with inCnt := n, inCh := c, sched := ts }

/-- `s` with another schedule. -/
def withSched (ts : List Turn) (s : State) : State := { s with sched := ts }

/-- What IN does with its item beside counting it (R200, R201, R203). -/
def feed (x : Byte) (s : State) : State :=
  if early s.opR s.lenR ≠ none then s else if s.opR[0] then decSym x s else packByte x s

section Feed

variable {n : Nat} {c : List Byte} {ts : List Turn} {s : State} {x : Byte}

theorem feed_discard (h : early s.opR s.lenR ≠ none) : feed x s = s := if_pos h

theorem feed_encode (h : early s.opR s.lenR = none) (hd : s.opR[0] = false) : feed x s = packByte x s := by
  simp [feed, h, hd]

theorem feed_decode (h : early s.opR s.lenR = none) (hd : s.opR[0] = true) : feed x s = decSym x s := by
  simp [feed, h, hd]

theorem packByte_withInput (b : Byte) : packByte b (withInput n c ts s) = withInput n c ts (packByte b s) := by
  by_cases hn : s.packN = 3#2 <;> simp [packByte, withInput, hn, enqueue]

theorem decSym_withInput (x : Byte) : decSym x (withInput n c ts s) = withInput n c ts (decSym x s) := by
  by_cases hn : s.decN = 4#3
  · rw [decSym_complete s x hn, decSym_complete (withInput n c ts s) x hn]
    rfl
  · rw [decSym_collect s x hn, decSym_collect (withInput n c ts s) x hn]
    rfl

theorem feed_withInput (x : Byte) : feed x (withInput n c ts s) = withInput n c ts (feed x s) := by
  rw [feed, feed, apply_ite (withInput n c ts), apply_ite (withInput n c ts), ← packByte_withInput,
    ← decSym_withInput]
  rfl

/-- The IN step counts the item and feeds it to the datapath (R199 to R203). -/
theorem inStep_withInput (x : Byte) : inStep x (withInput n c ts s) = withInput (n + 1) c ts (feed x s) := by
  rw [← feed_withInput]
  rcases inStep_cases x (withInput n c ts s) with ⟨he, e⟩ | ⟨he, hd, e⟩ | ⟨he, hd, e⟩ <;> rw [e]
  · exact (feed_discard (s := withInput (n + 1) c ts s) he).symm
  · exact (feed_encode (s := withInput (n + 1) c ts s) he hd).symm
  · exact (feed_decode (s := withInput (n + 1) c ts s) he hd).symm

theorem takeItem_eq_feed {rest : List Byte} (h : s.inCh = x :: rest) :
    takeItem s = withInput (s.inCnt + 1) rest s.sched (feed x s) := by
  rw [takeItem_cons s h]
  exact inStep_withInput (n := s.inCnt) (c := rest) (ts := s.sched) (s := s) x

theorem takeItem_withSched : takeItem (withSched ts s) = withSched ts (takeItem s) := by
  cases hin : s.inCh with
  | nil => rw [takeItem_nil hin, takeItem_nil (s := withSched ts s) hin]
  | cons x rest =>
    have hfeed : feed x (withSched ts s) = withInput s.inCnt s.inCh ts (feed x s) :=
      feed_withInput (s := s) (n := s.inCnt) (c := s.inCh) x
    rw [takeItem_eq_feed hin, takeItem_eq_feed (s := withSched ts s) hin, hfeed]
    rfl

theorem packByte_withSched (b : Byte) : packByte b (withSched ts s) = withSched ts (packByte b s) := by
  by_cases hn : s.packN = 3#2 <;> simp [packByte, withSched, hn, enqueue]

theorem prefixStep_withSched : prefixStep (withSched ts s) = withSched ts (prefixStep s) :=
  packByte_withSched (s := { s with preN := s.preN - 1#3 }) (prefixByte s)

end Feed

section Registers

variable (s : State) (x : Byte)

theorem packByte_registers : (packByte x s).opR = s.opR ∧ (packByte x s).lenR = s.lenR ∧
    (packByte x s).inCnt = s.inCnt ∧ (packByte x s).sched = s.sched := by
  rcases packByte_cases s x with ⟨-, e⟩ | ⟨-, e⟩ <;> rw [e] <;> exact ⟨rfl, rfl, rfl, rfl⟩

theorem groupOut_command (w : Word) (b o : Bool) :
    (groupOut w b o s).opR = s.opR ∧ (groupOut w b o s).lenR = s.lenR := by
  obtain ⟨items, -, e⟩ := groupOut_frame s w b o
  rw [e]
  exact ⟨rfl, rfl⟩

theorem decSym_command : (decSym x s).opR = s.opR ∧ (decSym x s).lenR = s.lenR := by
  by_cases hn : s.decN = 4#3
  · rw [decSym_complete s x hn]
    exact groupOut_command _ _ _ _
  · rw [decSym_collect s x hn]
    exact ⟨rfl, rfl⟩

theorem takeItem_command : (takeItem s).opR = s.opR ∧ (takeItem s).lenR = s.lenR := by
  have h : takeItem s = withCommand s.cmdCh s.opR s.lenR (takeItem s) :=
    takeItem_withCommand (.refl s.opR s.lenR)
  rw [h]
  exact ⟨rfl, rfl⟩

theorem takeItem_sched : (takeItem s).sched = s.sched := by
  cases hin : s.inCh with
  | nil => rw [takeItem_nil hin]
  | cons x rest =>
    rw [takeItem_eq_feed hin]
    rfl

/-- IN counts the item that it takes (R199). -/
theorem takeItem_input {x : Byte} {rest : List Byte} (h : s.inCh = x :: rest) :
    (takeItem s).inCnt = s.inCnt + 1 ∧ (takeItem s).inCh = rest := by
  rw [takeItem_eq_feed h]
  exact ⟨rfl, rfl⟩

/-- PREFIX counts `pre_n` down and writes no other register by which a later step is chosen (R198). -/
theorem prefixStep_registers : (prefixStep s).preN = s.preN - 1#3 ∧ (prefixStep s).opR = s.opR ∧
    (prefixStep s).lenR = s.lenR ∧ (prefixStep s).inCnt = s.inCnt ∧ (prefixStep s).sched = s.sched :=
  ⟨packByte_preN _ _, packByte_registers _ _⟩

end Registers

/-! ### The end of a frame, independent of the order of the steps (R214, R215) -/

/-- The frame in progress with all its PREFIX and then all its IN steps taken, whether the queue has room or not. -/
def fill (s : State) : State := takeItem^[need s.opR s.lenR - s.inCnt] (prefixStep^[s.preN.toNat] s)

/-- As many OUT steps as there are items in the queue (R207). -/
def drain (s : State) : State := { s with oq := [], sink := s.sink ++ s.oq.map Delivery.item }

/-- The state in which the frame in progress ends. -/
def finish (s : State) : State := doneStep (drain (fill s))

section Finish

variable {s : State}

theorem doneStep_withSched (ts : List Turn) (s : State) : doneStep (withSched ts s) = withSched ts (doneStep s) := by
  have hword : doneWord (withSched ts s) = doneWord s := rfl
  rw [doneStep, doneStep, hword]
  split <;> rfl

theorem fill_withSched (ts : List Turn) (s : State) : fill (withSched ts s) = withSched ts (fill s) := by
  have hitems : Function.Commute takeItem (withSched ts) := fun _ => takeItem_withSched
  have hprefix : Function.Commute prefixStep (withSched ts) := fun _ => prefixStep_withSched
  calc fill (withSched ts s)
      = takeItem^[need s.opR s.lenR - s.inCnt] (prefixStep^[s.preN.toNat] (withSched ts s)) := rfl
    _ = withSched ts (fill s) := by rw [(hprefix.iterate_left _).eq, (hitems.iterate_left _).eq]; rfl

/-- The schedule has no influence on how the frame ends. -/
theorem finish_withSched (ts : List Turn) (s : State) : finish (withSched ts s) = withSched ts (finish s) := by
  rw [finish, fill_withSched]
  exact doneStep_withSched ts (drain (fill s))

theorem fill_prefixStep (h : s.preN ≠ 0#3) : fill (prefixStep s) = fill s := by
  obtain ⟨hpre, hop, hlen, hcnt, -⟩ := prefixStep_registers s
  have hsucc : s.preN.toNat = (s.preN - 1#3).toNat + 1 := by bv_omega
  rw [fill, fill, hpre, hop, hlen, hcnt, hsucc, Function.iterate_succ_apply]

theorem fill_takeItem (hpre : s.preN = 0#3) (hlt : s.inCnt < need s.opR s.lenR) : fill (takeItem s) = fill s := by
  cases hin : s.inCh with
  | nil => rw [takeItem_nil hin]
  | cons x rest =>
    obtain ⟨hop, hlen⟩ := takeItem_command s
    obtain ⟨hcnt, -⟩ := takeItem_input s hin
    have hsucc : need s.opR s.lenR - s.inCnt = need s.opR s.lenR - (s.inCnt + 1) + 1 := by omega
    rw [fill, fill, takeItem_preN, hop, hlen, hcnt, hpre, hsucc]
    rfl

/-- What leaves a queued item in the queue and commutes with OUT does so any number of times (R214). -/
theorem outStep_iterate {f : State → State} (hqueue : ∀ s, s.oq ≠ [] → (f s).oq ≠ [])
    (hcomm : ∀ s, s.oq ≠ [] → outStep (f s) = f (outStep s)) (n : Nat) (hq : s.oq ≠ []) :
    outStep (f^[n] s) = f^[n] (outStep s) ∧ (f^[n] s).oq ≠ [] := by
  induction n generalizing s with
  | zero => exact ⟨rfl, hq⟩
  | succ n ih =>
    obtain ⟨hout, hne⟩ := ih (hqueue s hq)
    exact ⟨by rw [Function.iterate_succ_apply, hout, hcomm s hq, Function.iterate_succ_apply], hne⟩

theorem outStep_takeItem (hq : s.oq ≠ []) : outStep (takeItem s) = takeItem (outStep s) := by
  have hch : (outStep s).inCh = s.inCh := by rw [outStep_eq]
  cases hin : s.inCh with
  | nil => rw [takeItem_nil hin, takeItem_nil (hch.trans hin)]
  | cons x rest =>
    have hbeat : outStep { s with inCh := rest } = { outStep s with inCh := rest } := by simp only [outStep_eq]
    have hcomm := outStep_inStep (s := { s with inCh := rest }) hq x
    rw [takeItem_cons s hin, takeItem_cons (outStep s) (hch.trans hin), hcomm, hbeat]

theorem fill_outStep (hq : s.oq ≠ []) : fill (outStep s) = outStep (fill s) ∧ (fill s).oq ≠ [] := by
  have hreg : need (outStep s).opR (outStep s).lenR - (outStep s).inCnt = need s.opR s.lenR - s.inCnt ∧
      (outStep s).preN = s.preN := by simp only [outStep_eq, and_self]
  obtain ⟨hcount, hpre⟩ := hreg
  obtain ⟨hout, hne⟩ := outStep_iterate (fun t => (prefixStep_datapathOnly t).oq_ne_nil)
    (fun t => outStep_prefixStep) s.preN.toNat hq
  obtain ⟨hout', hne'⟩ := outStep_iterate (f := takeItem) (fun t => (takeItem_datapathOnly t).oq_ne_nil)
    (fun t => outStep_takeItem) (need s.opR s.lenR - s.inCnt) hne
  exact ⟨by rw [fill, hcount, hpre, ← hout, ← hout', fill], hne'⟩

theorem drain_outStep (hq : s.oq ≠ []) : drain (outStep s) = drain s := by
  obtain ⟨y, rest, hq⟩ := List.exists_cons_of_ne_nil hq
  simp [drain, outStep_cons s hq, hq]

theorem drain_of_empty (hq : s.oq = []) : drain s = s := by
  obtain ⟨⟩ := s
  simp_all [drain]

theorem finish_prefixStep (h : s.preN ≠ 0#3) : finish (prefixStep s) = finish s := by
  rw [finish, fill_prefixStep h, finish]

theorem finish_takeItem (hpre : s.preN = 0#3) (hlt : s.inCnt < need s.opR s.lenR) :
    finish (takeItem s) = finish s := by
  rw [finish, fill_takeItem hpre hlt, finish]

theorem finish_outStep (hq : s.oq ≠ []) : finish (outStep s) = finish s := by
  obtain ⟨hfill, hne⟩ := fill_outStep hq
  rw [finish, hfill, drain_outStep hne, finish]

/-- When DONE is enabled, no PREFIX and no IN step is left (R209). -/
theorem fill_of_canDone (h : canDone s = true) : fill s = s := by
  obtain ⟨-, hpre, hcnt, -⟩ := (canDone_iff s).mp h
  rw [fill, hpre, hcnt, Nat.sub_self]
  rfl

theorem finish_of_canDone (h : canDone s = true) : finish s = doneStep s := by
  obtain ⟨-, -, -, hoq⟩ := (canDone_iff s).mp h
  rw [finish, fill_of_canDone h, drain_of_empty hoq]

/-- A field that a step leaves as it is, any number of such steps leave as it is. -/
theorem iterate_keeps {α : Type} {f : State → State} (g : State → α) (hf : ∀ t, g (f t) = g t) (n : Nat)
    (t : State) : g (f^[n] t) = g t :=
  congrFun (Function.iterate_invariant (funext hf) n) t

/-- The sink keeps what it has, whatever the frame delivers after it. -/
theorem finish_sink (s : State) : (finish s).sink =
    s.sink ++ ((fill s).oq.map Delivery.item ++ [.status (doneWord (fill s))]) := by
  have hfill : (fill s).sink = s.sink := by
    rw [fill, iterate_keeps State.sink fun t => (takeItem_datapathOnly t).sink,
      iterate_keeps State.sink fun t => (prefixStep_datapathOnly t).sink]
  have hword : doneWord (drain (fill s)) = doneWord (fill s) := rfl
  rw [finish, doneStep_sink, hword, drain, hfill, List.append_assoc]

/-- Work on a frame in progress does not change how the frame ends: it is one of the frame's own steps, or its last. -/
theorem finish_workStep (hbusy : s.st = .busy) (t : Turn) :
    ((workStep t s).st = .busy ∧ finish (workStep t s) = finish s) ∨ workStep t s = finish s := by
  have unchanged {b : Bool} {u : State} (hst : u.st = s.st) (hu : b = true → finish u = finish s) :
      (if b then u else s).st = .busy ∧ finish (if b then u else s) = finish s := by
    cases b with
    | true => exact ⟨hst.trans hbusy, hu rfl⟩
    | false => exact ⟨hbusy, rfl⟩
  cases t with
  | pfx =>
    refine .inl (unchanged (prefixStep_datapathOnly s).st fun hc => ?_)
    obtain ⟨-, hpre, -⟩ := (canPrefix_iff s).mp hc
    exact finish_prefixStep hpre
  | inp =>
    refine .inl (unchanged (takeItem_datapathOnly s).st fun hc => ?_)
    obtain ⟨-, hpre, hlt, -⟩ := (canIn_iff s).mp hc
    exact finish_takeItem hpre hlt
  | out =>
    refine .inl (unchanged (outStep_st s) fun hc => finish_outStep ((canOut_iff s).mp hc))
  | done =>
    by_cases hc : canDone s = true
    · exact .inr (by simp only [workStep, hc, if_true, finish_of_canDone hc])
    · exact .inl (by simp only [workStep, hc]; exact ⟨hbusy, rfl⟩)
  | cmd | reset => exact .inl ⟨hbusy, rfl⟩

/-! ### The eager order -/

/-- The steps of the frame in progress that are left before DONE. -/
def stepsLeft (s : State) : Nat :=
  s.preN.toNat + (need s.opR s.lenR - s.inCnt) + (fill s).oq.length

/-- A frame in progress under the eager order, with all the items it still needs on offer and a queue that can hold
a group (R6). -/
structure EagerFrame (s : State) : Prop where
  busy : s.st = .busy
  sched : s.sched = []
  depth : 5 ≤ s.cfg.oqDepth
  count : s.inCnt ≤ need s.opR s.lenR
  offered : need s.opR s.lenR - s.inCnt ≤ s.inCh.length

theorem passTurn_of_nil (h : s.sched = []) : passTurn s = s := by
  obtain ⟨⟩ := s
  simp_all [passTurn]

/-- A step of the eager order that is neither CMD nor RESET is work on the frame. -/
theorem EagerFrame.step_eq (h : EagerFrame s) : step s = .next (passTurn (workStep (eagerTurn s) s)) := by
  have ht := turn_of_nil s h.sched
  have hidle : ¬ TakesCommand s := fun ⟨_, hst, _⟩ => nomatch h.busy.symm.trans hst
  rw [step_work (by rw [ht]; exact eagerTurn_ne_reset s) hidle, ht]

/-- The eager order takes PREFIX, else IN, else OUT, else DONE, and one of them is enabled. -/
theorem EagerFrame.eagerTurn_cases (h : EagerFrame s) :
    (eagerTurn s = .pfx ∧ canPrefix s = true) ∨
    (eagerTurn s = .inp ∧ canIn s = true ∧ s.inCh ≠ []) ∨
    (eagerTurn s = .out ∧ canOut s = true) ∨
    (eagerTurn s = .done ∧ canDone s = true) := by
  obtain ⟨hbusy, -, hdepth, hcount, hoffered⟩ := h
  have hcmd : canCmd s = false := by simp [canCmd, hbusy]
  by_cases hpfx : canPrefix s = true
  · exact .inl ⟨by simp [eagerTurn, hcmd, hpfx], hpfx⟩
  by_cases hin : canIn s = true ∧ s.inCh ≠ []
  · exact .inr (.inl ⟨by simp [eagerTurn, hcmd, hpfx, hin], hin⟩)
  have hin' : (canIn s && !s.inCh.isEmpty) = false := by simpa using hin
  by_cases hout : canOut s = true
  · exact .inr (.inr (.inl ⟨by simp [eagerTurn, hcmd, hpfx, hin', hout], hout⟩))
  have hoq : s.oq = [] := by simpa using hout
  have hpre : s.preN = 0#3 := by
    by_contra hpre
    exact hpfx ((canPrefix_iff s).mpr ⟨hbusy, hpre, by simpa [hoq] using hdepth⟩)
  have hcnt : s.inCnt = need s.opR s.lenR := by
    by_contra hcnt
    refine hin ⟨(canIn_iff s).mpr ⟨hbusy, hpre, by omega, by simpa [hoq] using hdepth⟩, fun hnil => ?_⟩
    rw [hnil, List.length_nil] at hoffered
    omega
  have hdone : canDone s = true := (canDone_iff s).mpr ⟨hbusy, hpre, hcnt, hoq⟩
  exact .inr (.inr (.inr ⟨eagerTurn_of_canDone hdone, hdone⟩))

theorem EagerFrame.after_prefixStep (h : EagerFrame s) (hc : canPrefix s = true) :
    EagerFrame (prefixStep s) ∧ stepsLeft (prefixStep s) + 1 = stepsLeft s := by
  obtain ⟨-, hne, -⟩ := (canPrefix_iff s).mp hc
  obtain ⟨hpre, hop, hlen, hcnt, hsched⟩ := prefixStep_registers s
  have hd := prefixStep_datapathOnly s
  refine ⟨⟨hd.st.trans h.busy, hsched.trans h.sched, hd.cfg ▸ h.depth, ?_, ?_⟩, ?_⟩
  · rw [hop, hlen, hcnt]
    exact h.count
  · rw [hop, hlen, hcnt, hd.inCh]
    exact h.offered
  · rw [stepsLeft, stepsLeft, hpre, hop, hlen, hcnt, fill_prefixStep hne]
    bv_omega

theorem EagerFrame.after_takeItem (h : EagerFrame s) (hc : canIn s = true) (hin : s.inCh ≠ []) :
    EagerFrame (takeItem s) ∧ stepsLeft (takeItem s) + 1 = stepsLeft s := by
  obtain ⟨-, hpre, hlt, -⟩ := (canIn_iff s).mp hc
  obtain ⟨x, rest, hin⟩ := List.exists_cons_of_ne_nil hin
  obtain ⟨hop, hlen⟩ := takeItem_command s
  obtain ⟨hcnt, hch⟩ := takeItem_input s hin
  have hsched := takeItem_sched s
  have hd := takeItem_datapathOnly s
  have hoffered := h.offered
  rw [hin, List.length_cons] at hoffered
  refine ⟨⟨hd.st.trans h.busy, hsched.trans h.sched, hd.cfg ▸ h.depth, ?_, ?_⟩, ?_⟩
  · rw [hop, hlen, hcnt]
    exact hlt
  · rw [hop, hlen, hcnt, hch]
    omega
  · rw [stepsLeft, stepsLeft, takeItem_preN, hop, hlen, hcnt, fill_takeItem hpre hlt]
    omega

theorem EagerFrame.after_outStep (h : EagerFrame s) (hc : canOut s = true) :
    EagerFrame (outStep s) ∧ stepsLeft (outStep s) + 1 = stepsLeft s := by
  obtain ⟨hfill, hne⟩ := fill_outStep ((canOut_iff s).mp hc)
  have hpos := List.length_pos_iff.mpr hne
  have hleft : stepsLeft (outStep s) =
      s.preN.toNat + (need s.opR s.lenR - s.inCnt) + (fill s).oq.tail.length := by
    rw [stepsLeft, hfill, outStep_eq, outStep_eq]
  refine ⟨?_, ?_⟩
  · obtain ⟨hbusy, hsched, hdepth, hcount, hoffered⟩ := h
    rw [outStep_eq]
    exact ⟨hbusy, hsched, hdepth, hcount, hoffered⟩
  · rw [hleft, List.length_tail, stepsLeft]
    omega

/-- DONE is the last step of the frame (R209). -/
theorem EagerFrame.last_step (h : EagerFrame s) (hc : canDone s = true) :
    passTurn (doneStep s) = finish s ∧ stepsLeft s = 0 := by
  obtain ⟨-, hpre, hcnt, hoq⟩ := (canDone_iff s).mp hc
  have hsched : (doneStep s).sched = [] := by
    rcases doneStep_cases s with ⟨-, e⟩ | ⟨-, e⟩ <;> rw [e] <;> exact h.sched
  refine ⟨by rw [passTurn_of_nil hsched, finish_of_canDone hc], ?_⟩
  simp [stepsLeft, fill_of_canDone hc, hpre, hcnt, hoq]

/-- Each step of the eager order is one of those that are left before DONE, or DONE when none is left. -/
theorem EagerFrame.step_cases (h : EagerFrame s) :
    (∃ u, step s = .next u ∧ EagerFrame u ∧ stepsLeft u + 1 = stepsLeft s ∧ finish u = finish s) ∨
    (step s = .next (finish s) ∧ stepsLeft s = 0) := by
  have before_done {u : State} (hu : workStep (eagerTurn s) s = u)
      (hnext : EagerFrame u ∧ stepsLeft u + 1 = stepsLeft s) (hfinish : finish u = finish s) :
      ∃ u, step s = .next u ∧ EagerFrame u ∧ stepsLeft u + 1 = stepsLeft s ∧ finish u = finish s := by
    obtain ⟨hframe, hleft⟩ := hnext
    exact ⟨u, by rw [h.step_eq, hu, passTurn_of_nil hframe.sched], hframe, hleft, hfinish⟩
  rcases h.eagerTurn_cases with ⟨ht, hc⟩ | ⟨ht, hc, hin⟩ | ⟨ht, hc⟩ | ⟨ht, hc⟩
  · obtain ⟨-, hpre, -⟩ := (canPrefix_iff s).mp hc
    exact .inl (before_done (by rw [ht]; exact if_pos hc) (h.after_prefixStep hc) (finish_prefixStep hpre))
  · obtain ⟨-, hpre, hlt, -⟩ := (canIn_iff s).mp hc
    exact .inl (before_done (by rw [ht]; exact if_pos hc) (h.after_takeItem hc hin) (finish_takeItem hpre hlt))
  · exact .inl (before_done (by rw [ht]; exact if_pos hc) (h.after_outStep hc)
      (finish_outStep ((canOut_iff s).mp hc)))
  · obtain ⟨hlast, hleft⟩ := h.last_step hc
    have hwork : workStep (eagerTurn s) s = doneStep s := by
      rw [ht]
      exact if_pos hc
    exact .inr ⟨by rw [h.step_eq, hwork, hlast], hleft⟩

/-- The eager order ends the frame in progress in the steps that are left and DONE (R213). -/
theorem EagerFrame.runs_eq {n : Nat} (h : EagerFrame s) (hn : stepsLeft s = n) :
    runs (n + 1) s = .next (finish s) := by
  induction n generalizing s with
  | zero =>
    rcases h.step_cases with ⟨u, -, -, hleft, -⟩ | ⟨hu, -⟩
    · omega
    · exact runs_of_step hu 0
  | succ n ih =>
    rcases h.step_cases with ⟨u, hu, hframe, hleft, hfinish⟩ | ⟨-, hleft⟩
    · rw [runs_of_step hu, ih hframe (by omega), hfinish]
    · omega

end Finish
end Sys2Proof.Machine

/-! SUPPORT. What the end of a frame holds: all its items fed to the packer or to the decoder, beside the frame-level
result of R193; and from that the frame under the eager order and under every schedule. -/
namespace Sys2Proof.Machine

/-! ### All items of a frame -/

/-- The items `xs`, one after the other, by `f`. -/
def feedAll (f : Byte → State → State) (xs : List Byte) (s : State) : State := xs.foldl (fun t x => f x t) s

theorem feedAll_cons (f : Byte → State → State) (x : Byte) (xs : List Byte) (s : State) :
    feedAll f (x :: xs) s = feedAll f xs (f x s) := rfl

theorem feedAll_append (f : Byte → State → State) (xs ys : List Byte) (s : State) :
    feedAll f (xs ++ ys) s = feedAll f ys (feedAll f xs s) := List.foldl_append

/-- IN steps on the items offered feed them to the datapath and count them (R199). -/
theorem takeItem_iterate (rest : List Byte) (xs : List Byte) {s : State} (h : s.inCh = xs ++ rest) :
    takeItem^[xs.length] s = withInput (s.inCnt + xs.length) rest s.sched (feedAll feed xs s) := by
  have feedAll_withInput (n : Nat) (c : List Byte) (ts : List Turn) (ys : List Byte) (t : State) :
      feedAll feed ys (withInput n c ts t) = withInput n c ts (feedAll feed ys t) := by
    induction ys generalizing t with
    | nil => rfl
    | cons y ys ih => rw [feedAll_cons, feed_withInput, ih, feedAll_cons]
  induction xs generalizing s with
  | nil =>
    obtain rfl : s.inCh = rest := h
    rfl
  | cons x xs ih =>
    rw [List.length_cons, Function.iterate_succ_apply, takeItem_eq_feed h, ih rfl, feedAll_withInput, feedAll_cons]
    simp only [withInput, Nat.add_assoc, Nat.add_comm 1]

section Kinds

variable {s : State}

theorem feedAll_discard (he : early s.opR s.lenR ≠ none) (xs : List Byte) : feedAll feed xs s = s := by
  induction xs with
  | nil => rfl
  | cons x xs ih => rw [feedAll_cons, feed_discard he, ih]

theorem feedAll_encode (he : early s.opR s.lenR = none) (hd : s.opR[0] = false) (xs : List Byte) :
    feedAll feed xs s = feedAll packByte xs s := by
  induction xs generalizing s with
  | nil => rfl
  | cons x xs ih =>
    obtain ⟨hop, hlen, -⟩ := packByte_registers s x
    rw [feedAll_cons, feed_encode he hd, ih (by rw [hop, hlen, he]) (by rw [hop, hd]), feedAll_cons]

theorem feedAll_decode (he : early s.opR s.lenR = none) (hd : s.opR[0] = true) (xs : List Byte) :
    feedAll feed xs s = feedAll decSym xs s := by
  induction xs generalizing s with
  | nil => rfl
  | cons x xs ih =>
    obtain ⟨hop, hlen⟩ := decSym_command s x
    rw [feedAll_cons, feed_decode he hd, ih (by rw [hop, hlen, he]) (by rw [hop, hd]), feedAll_cons]

theorem feedAll_packByte_command (bs : List Byte) (s : State) :
    (feedAll packByte bs s).opR = s.opR ∧ (feedAll packByte bs s).lenR = s.lenR := by
  induction bs generalizing s with
  | nil => exact ⟨rfl, rfl⟩
  | cons b bs ih =>
    obtain ⟨hop, hlen, -⟩ := packByte_registers s b
    obtain ⟨hop', hlen'⟩ := ih (packByte b s)
    exact ⟨hop'.trans hop, hlen'.trans hlen⟩

/-- Whole groups of bytes append their symbols and leave the packer empty (R162). -/
theorem feedAll_packByte : ∀ (bs : List Byte) (s : State), s.packAcc = 0#32 → s.packN = 0#2 → bs.length % 4 = 0 →
    feedAll packByte bs s = { s with oq := s.oq ++ encodeGroups s.cfg.alphabet bs }
  | [], s, _, _, _ => by simp [feedAll, encodeGroups]
  | [_], _, _, _, h | [_, _], _, _, _, h | [_, _, _], _, _, _, h => by simp at h
  | b0 :: b1 :: b2 :: b3 :: rest, s, hacc, hn, h => by
    have hrest : rest.length % 4 = 0 := by
      simp only [List.length_cons] at h
      omega
    simp only [feedAll_cons, fourBytesPackOneGroup s b0 b1 b2 b3 hacc hn]
    rw [feedAll_packByte rest _ (by exact hacc) (by exact hn) hrest]
    simp only [encodeGroups, List.append_assoc]

/-! ### The PREFIX steps of a frame -/

/-- PREFIX feeds its byte to the packer, which does not read `pre_n` (R198). -/
theorem prefixStep_with_preN (p : BitVec 3) :
    { prefixStep s with preN := p } = packByte (prefixByte s) { s with preN := p } := by
  by_cases h3 : s.packN = 3#2 <;> simp [prefixStep, packByte, h3, enqueue]

/-- The PREFIX steps after the header feed zero bytes (R167, R198). -/
theorem prefixStep_iterate_zeros {n : Nat} (hn : s.preN.toNat = n) (hle : n ≤ padLen s.lenR) :
    prefixStep^[n] s = feedAll packByte (List.replicate n 0#8) { s with preN := 0#3 } := by
  induction n generalizing s with
  | zero =>
    have h : s.preN = 0#3 := BitVec.eq_of_toNat_eq hn
    rw [← h]
    rfl
  | succ n ih =>
    obtain ⟨hpre, -, hlen, -⟩ := prefixStep_registers s
    have hzero : prefixByte s = 0#8 := if_neg (by omega)
    rw [Function.iterate_succ_apply, ih (by rw [hpre]; bv_omega) (by rw [hlen]; omega), prefixStep_with_preN,
      hzero, List.replicate_succ, feedAll_cons]

/-- All PREFIX steps of a frame feed the header and the zero bytes (R167, R198). -/
theorem prefixStep_iterate (hn : s.preN.toNat = 1 + padLen s.lenR) :
    prefixStep^[1 + padLen s.lenR] s =
      feedAll packByte ([BitVec.ofNat 8 (padLen s.lenR)] ++ List.replicate (padLen s.lenR) 0#8)
        { s with preN := 0#3 } := by
  obtain ⟨hpre, -, hlen, -⟩ := prefixStep_registers s
  have hheader : prefixByte s = BitVec.ofNat 8 (padLen s.lenR) := if_pos hn
  have hzeros := prefixStep_iterate_zeros (s := prefixStep s) (n := padLen s.lenR) (by rw [hpre]; bv_omega)
    (by rw [hlen])
  rw [Nat.add_comm, Function.iterate_succ_apply, hzeros, prefixStep_with_preN, hheader, List.singleton_append,
    feedAll_cons]

/-! ### The groups of a decode frame -/

/-- `GroupOut` on one group after the other (R205, R206). -/
def emitGroups (gs : List GroupResult) (s : State) : State := gs.foldl (fun t g => groupOut g.w g.bad g.ovf t) s

/-- Whole groups of symbols go through the decoder one by one (R138, R140). -/
theorem feedAll_decSym {xs : List Byte} (h : WholeGroups xs) (hacc : s.decAcc = 0#32) (hn : s.decN = 0#3)
    (hbad : s.decBad = false) (hovf : s.decOvf = false) :
    feedAll decSym xs s = emitGroups (decodeGroups s.cfg.alphabet xs) s := by
  induction h generalizing s with
  | nil => rfl
  | @group rest x0 x1 x2 x3 x4 tail ih =>
    have hfive := decSym_five s x0 x1 x2 x3 x4
    rw [withDecoder_of_empty hacc hn hbad hovf] at hfive
    obtain ⟨hacc', hn', hbad', hovf'⟩ := groupOut_decoder s (decGrp s.cfg.alphabet x0 x1 x2 x3 x4).w
      (decGrp s.cfg.alphabet x0 x1 x2 x3 x4).bad (decGrp s.cfg.alphabet x0 x1 x2 x3 x4).ovf
    have hcfg := (groupOut_datapathOnly (decGrp s.cfg.alphabet x0 x1 x2 x3 x4).w
      (decGrp s.cfg.alphabet x0 x1 x2 x3 x4).bad (decGrp s.cfg.alphabet x0 x1 x2 x3 x4).ovf s).cfg
    simp only [feedAll_cons, hfive]
    rw [ih (hacc'.trans hacc) (hn'.trans hn) (hbad'.trans hbad) (hovf'.trans hovf), hcfg]
    rfl

theorem carriesHeader_false (h : s.opR ≠ 3#3 ∨ s.firstGrp = false) (b : Bool) :
    carriesHeader s.opR s.firstGrp b = false := by
  rcases h with h | h <;> simp [carriesHeader, h]

/-- Groups without a header: the flags are collected, and the bytes go out up to the first bad group, unless
something suppressed them before (R205, R206). -/
theorem emitGroups_no_header (h : s.opR ≠ 3#3 ∨ s.firstGrp = false) (gs : List GroupResult) :
    emitGroups gs s = { s with
      badR := s.badR || gs.any (fun g => g.bad), ovfR := s.ovfR || gs.any (fun g => g.ovf)
      firstGrp := s.firstGrp && gs.isEmpty
      oq := s.oq ++ if s.badR || s.oor then [] else groupBytes (gs.takeWhile (fun g => !g.bad)) } := by
  induction gs generalizing s with
  | nil => simp [emitGroups, groupBytes]
  | cons g gs ih =>
    have hstep := groupOut_no_header s g.w g.bad g.ovf (carriesHeader_false h g.bad)
    have hcons : emitGroups (g :: gs) s = emitGroups gs (groupOut g.w g.bad g.ovf s) := rfl
    rw [hcons, hstep, ih (.inr rfl)]
    cases hbad : g.bad <;> cases hb : s.badR <;> cases ho : s.oor <;>
      simp [hbad, Bool.or_assoc, groupBytes]

/-- The header of the bytes up to the first bad group, and 0 when there are none (R170). -/
def leadingHeader (gs : List GroupResult) : Nat :=
  ((groupBytes (gs.takeWhile (fun g => !g.bad))).getD 0 0#8).toNat

theorem leadingHeader_cons {g : GroupResult} (hbad : g.bad = false) (gs : List GroupResult) :
    leadingHeader (g :: gs) = (headerOf g.w).toNat := by
  simp [leadingHeader, hbad, groupBytes_cons, bytesOf, headerOf]

/-- Groups of a `PZ85D` frame from its first one on: the first group is checked for its header, and header and
padding are stripped unless it is bad (R170, R171, R205, R206). -/
theorem emitGroups_header (hop : s.opR = 3#3) (hfirst : s.firstGrp = true) (hbad : s.badR = false)
    (hoor : s.oor = false) (gs : List GroupResult) :
    emitGroups gs s = { s with
      badR := gs.any (fun g => g.bad), ovfR := s.ovfR || gs.any (fun g => g.ovf)
      firstGrp := gs.isEmpty, oor := decide (4 ≤ leadingHeader gs)
      oq := s.oq ++ if 4 ≤ leadingHeader gs then []
        else (groupBytes (gs.takeWhile (fun g => !g.bad))).drop (1 + leadingHeader gs) } := by
  cases gs with
  | nil =>
    obtain ⟨⟩ := s
    simp_all [emitGroups, leadingHeader, groupBytes]
  | cons g gs =>
    have hcons : emitGroups (g :: gs) s = emitGroups gs (groupOut g.w g.bad g.ovf s) := rfl
    cases hg : g.bad with
    | true =>
      have hno : carriesHeader s.opR s.firstGrp true = false := by simp [carriesHeader]
      rw [hcons, hg, groupOut_no_header s g.w true g.ovf hno, emitGroups_no_header (.inr rfl)]
      simp [hg, leadingHeader, groupBytes, hoor, Bool.or_assoc]
    | false =>
      have hhead : carriesHeader s.opR s.firstGrp false = true := by simp [carriesHeader, hop, hfirst]
      cases hp : headerOutOfRange (headerOf g.w) with
      | true =>
        have hge : 4 ≤ (headerOf g.w).toNat := by simpa [headerOutOfRange] using hp
        rw [hcons, hg, groupOut_out_of_range s g.w false g.ovf hhead hp, emitGroups_no_header (.inr rfl)]
        simp [hg, leadingHeader_cons hg, hge, hbad, Bool.or_assoc]
      | false =>
        have hlt : ¬ 4 ≤ (headerOf g.w).toNat := by simpa [headerOutOfRange] using hp
        have hstrip (rest : List Byte) : (bytesOf g.w ++ rest).drop (1 + (headerOf g.w).toNat) =
            (bytesOf g.w).drop (1 + (headerOf g.w).toNat) ++ rest :=
          List.drop_append_of_le_length (by simp only [bytesOf, List.length_cons, List.length_nil]; omega)
        rw [hcons, hg, groupOut_strip s g.w false g.ovf hhead hp, emitGroups_no_header (.inr rfl)]
        simp [hg, leadingHeader_cons hg, hlt, hbad, hoor, Bool.or_assoc, groupBytes_cons, hstrip]

end Kinds

/-! ### The frame-level result of a frame that is fed to the datapath -/

/-- The header test that decides `oor` at the end of a frame: a `PZ85D` frame whose bytes before the first bad group
begin with 4 or more (R170). -/
def headerTooLarge (alphabet : List Sym) (i : Instr) (x : List Byte) : Bool :=
  decide (i.op = 3#3) && decide (4 ≤ leadingHeader (decodeGroups alphabet x))

/-- The three decode commands. -/
theorem decode_instr_cases {i : Instr} (hd : i.op[0] = true) (he : early i.op i.len = none) :
    (∃ n, i = .z85d n) ∨ (∃ n, i = .pz85d n) ∨ ∃ n, i = .decg n := by
  cases i with
  | z85e n | pz85e n | encg n | op6 n => simp [Instr.op] at hd
  | op7 n => simp [early, Instr.op] at he
  | z85d n => exact .inl ⟨n, rfl⟩
  | pz85d n => exact .inr (.inl ⟨n, rfl⟩)
  | decg n => exact .inr (.inr ⟨n, rfl⟩)

/-- A decode frame that has no early failure is not empty (R24). -/
theorem need_decode_ne_zero {op : Opcode} {len : Nat} (hd : op[0] = true) (he : early op len = none) :
    need op len ≠ 0 := by
  rcases decode_op_cases hd he with ⟨rfl | rfl, -⟩ | rfl
  · rintro rfl
    simp [early] at he
  · rintro rfl
    simp [early] at he
  · simp [need]

section DecodeFrame

variable {alphabet : List Sym} {i : Instr} {x : List Byte}

/-- The result of a decode command is that of `Z85Decode`, but for the header of a padded one (R193). -/
theorem frameResult_decode (hd : i.op[0] = true) (he : early i.op i.len = none) :
    frameResult alphabet i x = z85Decode alphabet x ∧ i.op ≠ 3#3 ∧
      voidItems alphabet i x = goodBytes alphabet x ∨
    frameResult alphabet i x = pz85Decode alphabet x ∧ i.op = 3#3 ∧
      voidItems alphabet i x = (if 4 ≤ leadingHeader (decodeGroups alphabet x) then []
        else (goodBytes alphabet x).drop (1 + leadingHeader (decodeGroups alphabet x))) := by
  rcases decode_instr_cases hd he with ⟨n, rfl⟩ | ⟨n, rfl⟩ | ⟨n, rfl⟩
  · exact .inl ⟨rfl, by simp [Instr.op], rfl⟩
  · exact .inr ⟨rfl, rfl, rfl⟩
  · exact .inl ⟨rfl, by simp [Instr.op], rfl⟩

/-- A decode frame that passes the length check collects the overflows of all its groups (R205). -/
theorem frameOvf_decode (hd : i.op[0] = true) (he : early i.op i.len = none)
    (hr : frameResult alphabet i x ≠ .soft .invalidLength) :
    frameOvf alphabet i x = (decodeGroups alphabet x).any (fun g => g.ovf) := by
  rcases decode_instr_cases hd he with ⟨n, rfl⟩ | ⟨n, rfl⟩ | ⟨n, rfl⟩ <;>
    (unfold frameOvf; split <;> simp_all)

/-- A decode frame that passes the length check, at the frame level: its items are those before the first bad group
whatever the status, and the status follows the precedence of R210 (41_base85_decoder.md R145, R147;
42_padded_wrapper.md R173, R175). -/
theorem decode_frame (hd : i.op[0] = true) (he : early i.op i.len = none) (hx : x.length = need i.op i.len) :
    frameItems alphabet i x = voidItems alphabet i x ∧
    frameStatus alphabet i x = (if (decodeGroups alphabet x).any (fun g => g.bad) then .badSymbol
      else if headerTooLarge alphabet i x then .outOfRange else .ok) ∧
    frameOvf alphabet i x = (decodeGroups alphabet x).any (fun g => g.ovf) := by
  have h0 : x.length ≠ 0 := hx ▸ need_decode_ne_zero hd he
  have h5 : x.length % 5 = 0 := hx ▸ need_decode_mod hd he
  cases hbad : (decodeGroups alphabet x).any (fun g => g.bad) with
  | true =>
    have hdec : z85Decode alphabet x = .soft .badSymbol := by simp [z85Decode, h0, h5, hbad]
    have hres : frameResult alphabet i x = .soft .badSymbol := by
      rcases frameResult_decode (alphabet := alphabet) (x := x) hd he with ⟨hr, -⟩ | ⟨hr, -⟩
      · exact hr.trans hdec
      · exact hr.trans (pz85Decode_of_soft hdec)
    obtain ⟨hst, hitems⟩ := frame_of_badSymbol hres
    exact ⟨hitems, hst, frameOvf_decode hd he (by rw [hres]; decide)⟩
  | false =>
    have hdec : z85Decode alphabet x = .ok (groupBytes (decodeGroups alphabet x))
        ((decodeGroups alphabet x).any (fun g => g.ovf)) := by simp [z85Decode, h0, h5, hbad]
    have hall : (decodeGroups alphabet x).takeWhile (fun g => !g.bad) = decodeGroups alphabet x :=
      List.takeWhile_eq_self_iff.mpr (by simpa using hbad)
    have hgood : goodBytes alphabet x = groupBytes (decodeGroups alphabet x) := by rw [goodBytes, hall]
    rcases frameResult_decode (alphabet := alphabet) (x := x) hd he with ⟨hr, hop, hvoid⟩ | ⟨hr, hop, hvoid⟩
    · obtain ⟨hst, hitems⟩ := frame_of_ok (hr.trans hdec)
      refine ⟨by rw [hitems, hvoid, hgood], ?_, frameOvf_decode hd he (by rw [hr, hdec]; simp)⟩
      simp [hst, headerTooLarge, hop]
    · have hpad := hr.trans (pz85Decode_of_ok hdec)
      have hlead : leadingHeader (decodeGroups alphabet x) =
          ((groupBytes (decodeGroups alphabet x)).getD 0 0#8).toNat := by rw [leadingHeader, hall]
      rw [← hlead] at hpad
      by_cases hp : 4 ≤ leadingHeader (decodeGroups alphabet x)
      · rw [if_pos hp] at hpad
        obtain ⟨hst, hitems⟩ := frame_of_fatal hpad
        refine ⟨by rw [hitems, hvoid, if_pos hp], ?_, frameOvf_decode hd he (by rw [hpad]; simp)⟩
        simp [hst, headerTooLarge, hop, hp]
      · rw [if_neg hp] at hpad
        obtain ⟨hst, hitems⟩ := frame_of_ok hpad
        refine ⟨by rw [hitems, hvoid, if_neg hp, hgood], ?_, frameOvf_decode hd he (by rw [hpad]; simp)⟩
        simp [hst, headerTooLarge, hop, hp]

end DecodeFrame

/-- The early failures at the frame level (R24, R193). -/
theorem frameResult_early {alphabet : List Sym} {i : Instr} {st : Status} (he : early i.op i.len = some st)
    {x : List Byte} (hx : x.length = need i.op i.len) :
    frameResult alphabet i x = .soft st ∧ st ≠ .badSymbol ∧ (st = .invalidLength ∨ x = []) := by
  have decode_frames (n : Nat) (hx : x.length = n)
      (he : (if n = 0 then some .emptyInput else if n % 5 ≠ 0 then some .invalidLength else none) = some st) :
      z85Decode alphabet x = .soft st ∧ st ≠ .badSymbol ∧ (st = .invalidLength ∨ x = []) := by
    subst hx
    split at he
    next h0 =>
      cases he
      exact ⟨by simp [z85Decode, h0], by decide, .inr (List.eq_nil_of_length_eq_zero h0)⟩
    next h0 =>
      split at he
      next h5 =>
        cases he
        exact ⟨by simp [z85Decode, h0, h5], by decide, .inl rfl⟩
      next => cases he
  cases i with
  | z85e n =>
    obtain ⟨hlen, rfl⟩ : n % 4 ≠ 0 ∧ Status.invalidLength = st := by
      simpa [early, Instr.op, Instr.len] using he
    have hx' : x.length = n := by simpa [need, Instr.op, Instr.len] using hx
    exact ⟨z85Encode_partial (hx' ▸ hlen) alphabet, by decide, .inl rfl⟩
  | z85d n =>
    exact decode_frames n (by simpa [need, Instr.op, Instr.len] using hx)
      (by simpa [early, Instr.op, Instr.len] using he)
  | pz85d n =>
    obtain ⟨hdec, hst⟩ := decode_frames n (by simpa [need, Instr.op, Instr.len] using hx)
      (by simpa [early, Instr.op, Instr.len] using he)
    exact ⟨pz85Decode_of_soft hdec, hst⟩
  | pz85e n | encg n | decg n => simp [early, Instr.op] at he
  | op6 n | op7 n =>
    obtain rfl : Status.illegalOp = st := by simpa [early, Instr.op] using he
    have hx' : x.length = 0 := by simpa [need, Instr.op] using hx
    exact ⟨rfl, by decide, .inr (List.eq_nil_of_length_eq_zero hx')⟩

/-- A frame that fails early delivers nothing but its status (R200, R210). -/
theorem early_frame {alphabet : List Sym} {i : Instr} {st : Status} (he : early i.op i.len = some st)
    {x : List Byte} (hx : x.length = need i.op i.len) :
    frameItems alphabet i x = [] ∧ frameStatus alphabet i x = st ∧ frameOvf alphabet i x = false := by
  obtain ⟨hres, hst, hno⟩ := frameResult_early (alphabet := alphabet) he hx
  obtain ⟨hstatus, hitems⟩ := frame_of_soft hres hst
  refine ⟨hitems, hstatus, ?_⟩
  rcases hno with rfl | rfl
  · simp only [frameOvf, hres]
  · unfold frameOvf
    split <;> rfl

/-- No group of an encode frame overflows (R76). -/
theorem frameOvf_encode {i : Instr} (hd : i.op[0] = false) (alphabet : List Sym) (x : List Byte) :
    frameOvf alphabet i x = false := by
  cases i with
  | z85e n | pz85e n | encg n | op6 n =>
    unfold frameOvf
    split <;> simp_all
  | z85d n | pz85d n | decg n | op7 n => simp [Instr.op] at hd

/-- The bytes that an encode frame feeds to the packer: the inner buffer on `PZ85E`, else the items (R164, R201). -/
def encodedBytes (i : Instr) (x : List Byte) : List Byte := if i.op = 2#3 then inner x else x

/-- An encode frame without an early failure, at the frame level (40_base85_encoder.md R111, R165). -/
theorem encode_frame {alphabet : List Sym} {i : Instr} (hd : i.op[0] = false) (he : early i.op i.len = none)
    {x : List Byte} (hx : x.length = need i.op i.len) :
    (encodedBytes i x).length % 4 = 0 ∧ frameItems alphabet i x = encodeGroups alphabet (encodedBytes i x) ∧
    frameStatus alphabet i x = .ok ∧ frameOvf alphabet i x = false := by
  have hwhole : (encodedBytes i x).length % 4 = 0 := by
    rcases encode_op_cases hd he with ⟨hop, hlen⟩ | hop | hop
    · simpa [encodedBytes, hop, hx, need] using hlen
    · simpa [encodedBytes, hop, inner_length] using padLen_completes x.length
    · simp [encodedBytes, hop, hx, need]
  have hres : frameResult alphabet i x = .ok (encodeGroups alphabet (encodedBytes i x)) false := by
    rw [← z85Encode_whole hwhole]
    cases i with
    | z85e n | pz85e n | encg n => rfl
    | z85d n | pz85d n | decg n | op7 n => simp [Instr.op] at hd
    | op6 n => simp [early, Instr.op] at he
  obtain ⟨hst, hitems⟩ := frame_of_ok hres
  exact ⟨hwhole, hitems, hst, frameOvf_encode hd alphabet x⟩

/-! ### From CMD to the end of the frame -/

/-- The core after it accepted the command `i` (R192). -/
def accepted (i : Instr) (s : State) : State := takeCommand (cmdStep i.op i.len s)

/-- `t` is `s` after the datapath took a whole frame: it holds the items and what DONE will report. -/
structure HoldsFrame (i : Instr) (x : List Byte) (s t : State) : Prop where
  cfg : t.cfg = s.cfg
  cmdCh : t.cmdCh = s.cmdCh.tail
  command : t.opR = i.op ∧ t.lenR = i.len
  oq : t.oq = frameItems s.cfg.alphabet i x
  status : doneStatus i.op i.len t.badR t.oor = frameStatus s.cfg.alphabet i x
  ovf : t.ovfR = frameOvf s.cfg.alphabet i x

/-- Without an early failure the flags decide the status (R210). -/
theorem doneStatus_of_not_early {op : Opcode} {len : Nat} (he : early op len = none) (bad oor : Bool) :
    doneStatus op len bad oor = if bad then .badSymbol else if oor then .outOfRange else .ok := by
  simp only [doneStatus, he]

section Accepted

variable {i : Instr} {s : State} {x : List Byte}

theorem holdsFrame_early {st : Status} (he : early i.op i.len = some st) (hx : x.length = need i.op i.len)
    (hoq : s.oq = []) : HoldsFrame i x s (feedAll feed x (accepted i s)) := by
  obtain ⟨hitems, hstatus, hovf⟩ := early_frame (alphabet := s.cfg.alphabet) he hx
  have hfeed : feedAll feed x (accepted i s) = accepted i s :=
    feedAll_discard (s := accepted i s) (by rw [accepted]; simp [he]) x
  rw [hfeed]
  exact ⟨rfl, rfl, ⟨rfl, rfl⟩, hoq.trans hitems.symm, by rw [hstatus]; simp [doneStatus, he], hovf.symm⟩

theorem holdsFrame_decode (hd : i.op[0] = true) (he : early i.op i.len = none) (hx : x.length = need i.op i.len)
    (hoq : s.oq = []) : HoldsFrame i x s (feedAll feed x (accepted i s)) := by
  obtain ⟨hitems, hstatus, hovf⟩ := decode_frame (alphabet := s.cfg.alphabet) hd he hx
  have hwhole : WholeGroups x := wholeGroups_of_length (hx ▸ need_decode_mod hd he)
  have hfeed : feedAll feed x (accepted i s) = emitGroups (decodeGroups s.cfg.alphabet x) (accepted i s) := by
    rw [feedAll_decode (s := accepted i s) he hd, feedAll_decSym hwhole rfl rfl rfl rfl]
    rfl
  rw [hfeed]
  rcases frameResult_decode (alphabet := s.cfg.alphabet) (x := x) hd he with ⟨-, hop, hvoid⟩ | ⟨-, hop, hvoid⟩
  · rw [emitGroups_no_header (s := accepted i s) (.inl hop)]
    refine ⟨rfl, rfl, ⟨rfl, rfl⟩, ?_, ?_, ?_⟩
    · rw [hitems, hvoid]
      simp [accepted, hoq, goodBytes]
    · rw [hstatus, doneStatus_of_not_early he]
      simp [accepted, headerTooLarge, hop]
    · simp [accepted, hovf]
  · rw [emitGroups_header (s := accepted i s) hop rfl rfl rfl]
    refine ⟨rfl, rfl, ⟨rfl, rfl⟩, ?_, ?_, ?_⟩
    · rw [hitems, hvoid]
      simp [accepted, hoq, goodBytes]
    · rw [hstatus, doneStatus_of_not_early he]
      simp [headerTooLarge, hop]
    · simp [accepted, hovf]

/-- All PREFIX and IN steps of an encode frame feed its bytes to the packer (R167, R198, R201). -/
theorem encode_feeds_bytes (hd : i.op[0] = false) (he : early i.op i.len = none) (hx : x.length = need i.op i.len) :
    feedAll feed x (prefixStep^[prefixCount i.op i.len] (accepted i s)) =
      feedAll packByte (encodedBytes i x) { accepted i s with preN := 0#3 } := by
  by_cases hop : i.op = 2#3
  · have hlen : i.len = x.length := by simpa [need, hop] using hx.symm
    have hpre : (accepted i s).preN.toNat = 1 + padLen (accepted i s).lenR := by
      rw [accepted, takeCommand_preN, cmdStep_preN, prefixCount_toNat, hop, prefixCount_pz85e]
      rfl
    have hiter : prefixStep^[prefixCount i.op i.len] (accepted i s) =
        feedAll packByte ([BitVec.ofNat 8 (padLen x.length)] ++ List.replicate (padLen x.length) 0#8)
          { accepted i s with preN := 0#3 } := by
      rw [hop, prefixCount_pz85e, ← hlen]
      exact prefixStep_iterate hpre
    obtain ⟨hop', hlen'⟩ := feedAll_packByte_command
      ([BitVec.ofNat 8 (padLen x.length)] ++ List.replicate (padLen x.length) 0#8)
      { accepted i s with preN := 0#3 }
    rw [hiter, feedAll_encode (by rw [hop', hlen']; exact he) (by rw [hop']; exact hd), ← feedAll_append,
      encodedBytes, if_pos hop, inner]
  · have hzero : prefixCount i.op i.len = 0 := prefixCount_of_ne hop i.len
    have hpre : { accepted i s with preN := 0#3 } = accepted i s := by simp [accepted, cmdStep, takeCommand, hzero]
    rw [hzero, hpre, encodedBytes, if_neg hop]
    exact feedAll_encode (s := accepted i s) he hd x

theorem holdsFrame_encode (hd : i.op[0] = false) (he : early i.op i.len = none) (hx : x.length = need i.op i.len)
    (hoq : s.oq = []) :
    HoldsFrame i x s (feedAll feed x (prefixStep^[prefixCount i.op i.len] (accepted i s))) := by
  obtain ⟨hwhole, hitems, hstatus, hovf⟩ := encode_frame (alphabet := s.cfg.alphabet) hd he hx
  rw [encode_feeds_bytes hd he hx, feedAll_packByte _ { accepted i s with preN := 0#3 } rfl rfl hwhole]
  refine ⟨rfl, rfl, ⟨rfl, rfl⟩, ?_, ?_, hovf.symm⟩
  · rw [hitems]
    simp [accepted, hoq]
  · rw [hstatus, doneStatus_of_not_early he]
    rfl

/-- The three kinds of frame: one that fails early, one of an encode command, one of a decode command. -/
theorem holdsFrame (hx : x.length = need i.op i.len) (hoq : s.oq = []) :
    HoldsFrame i x s (feedAll feed x (prefixStep^[prefixCount i.op i.len] (accepted i s))) := by
  cases he : early i.op i.len with
  | some st =>
    have hop : i.op ≠ 2#3 := fun hop => by rw [hop, early_pz85e] at he; cases he
    rw [prefixCount_of_ne hop]
    exact holdsFrame_early he hx hoq
  | none =>
    cases hd : i.op[0] with
    | false => exact holdsFrame_encode hd he hx hoq
    | true =>
      have hop : i.op ≠ 2#3 := fun hop => by simp [hop] at hd
      rw [prefixCount_of_ne hop]
      exact holdsFrame_decode hd he hx hoq

/-- The whole frame of an accepted command, as the datapath takes it (R193). -/
theorem fill_accepted {rest : List Byte} (hx : x.length = need i.op i.len) (hin : s.inCh = x ++ rest)
    (hoq : s.oq = []) : HoldsFrame i x s (fill (accepted i s)) ∧ (fill (accepted i s)).inCh = rest := by
  have hfill : fill (accepted i s) =
      takeItem^[x.length] (prefixStep^[prefixCount i.op i.len] (accepted i s)) := by
    rw [fill, hx, ← prefixCount_toNat]
    rfl
  have hch : (prefixStep^[prefixCount i.op i.len] (accepted i s)).inCh = x ++ rest := by
    rw [iterate_keeps State.inCh fun t => (prefixStep_datapathOnly t).inCh]
    exact hin
  rw [hfill, takeItem_iterate rest x hch]
  obtain ⟨hcfg, hcmd, hcommand, hq, hstatus, hovf⟩ := holdsFrame (s := s) hx hoq
  exact ⟨⟨hcfg, hcmd, hcommand, hq, hstatus, hovf⟩, rfl⟩

/-- The state in which the frame of an accepted command ends (R193, R213, R215). -/
theorem finish_accepted {rest : List Byte} (hx : x.length = need i.op i.len) (hin : s.inCh = x ++ rest)
    (hoq : s.oq = []) :
    (finish (accepted i s)).sink = s.sink ++ frameDeliveries s.cfg.alphabet i x ∧
    (finish (accepted i s)).cmdCh = s.cmdCh.tail ∧ (finish (accepted i s)).inCh = rest ∧
    (finish (accepted i s)).oq = [] ∧ (finish (accepted i s)).cfg = s.cfg ∧
    (finish (accepted i s)).st = (if frameStatus s.cfg.alphabet i x = .outOfRange then .halt else .idle) := by
  obtain ⟨⟨hcfg, hcmd, ⟨hop, hlen⟩, hq, hstatus, hovf⟩, hrest⟩ := fill_accepted hx hin hoq
  have hword : doneWord (fill (accepted i s)) =
      { status := frameStatus s.cfg.alphabet i x, ovf := frameOvf s.cfg.alphabet i x } := by
    rw [doneWord, hop, hlen, hstatus, hovf]
  have hword' : (doneWord (drain (fill (accepted i s)))).status = frameStatus s.cfg.alphabet i x :=
    congrArg DoneWord.status hword
  refine ⟨by rw [finish_sink, hword, hq]; rfl, ?_⟩
  rcases doneStep_cases (drain (fill (accepted i s))) with ⟨hst, e⟩ | ⟨hst, e⟩ <;> rw [finish, e]
  · exact ⟨hcmd, hrest, rfl, hcfg, (if_pos (hword' ▸ hst)).symm⟩
  · exact ⟨hcmd, hrest, rfl, hcfg, (if_neg (hword' ▸ hst)).symm⟩

end Accepted

/-! ### The eager order from CMD on -/

/-- Settles O48: after CMD the eager order takes the steps that are left of the frame, whose end is known. -/
theorem eagerRunDeliversTheFrameResult : Obligations.EagerRunDeliversTheFrameResult := by
  intro i s x rest ws ⟨_, hdepth, _⟩ hwf hst hoq hsched hcmd hin hx
  have ht : turn s = .cmd := by
    rw [turn_of_nil s hsched]
    simp [eagerTurn, hst, hcmd]
  have haccept : step s = .next (accepted i s) := by
    rw [step_accepts hst ht hcmd (decode_encode (wellFormed_iff.mp hwf))]
    exact congrArg Host.Outcome.next (passTurn_of_nil (s := accepted i s) hsched)
  have hframe : EagerFrame (accepted i s) := {
    busy := rfl
    sched := hsched
    depth := hdepth
    count := Nat.zero_le _
    offered := by
      have hch : (accepted i s).inCh = x ++ rest := hin
      have hneed : need (accepted i s).opR (accepted i s).lenR - (accepted i s).inCnt = x.length := hx.symm
      rw [hch, hneed, List.length_append]
      exact Nat.le_add_right _ _ }
  obtain ⟨hholds, -⟩ := fill_accepted hx hin hoq
  have hleft : stepsLeft (accepted i s) =
      prefixCount i.op i.len + need i.op i.len + (frameItems s.cfg.alphabet i x).length := by
    rw [stepsLeft, hholds.oq, ← prefixCount_toNat]
    rfl
  have hcount : 2 + prefixCount i.op i.len + need i.op i.len + (frameItems s.cfg.alphabet i x).length =
      stepsLeft (accepted i s) + 1 + 1 := by omega
  obtain ⟨hsink, hcmd', hrest⟩ := finish_accepted hx hin hoq
  exact ⟨finish (accepted i s), by rw [hcount, runs_of_step haccept, hframe.runs_eq rfl], hsink,
    hcmd'.trans (by rw [hcmd, List.tail_cons]), hrest⟩

/-! ### Every schedule -/

/-- Each step moves the schedule on by one turn, if it names one. -/
theorem step_sched {s t : State} (h : step s = .next t) : t.sched = s.sched.tail := by
  have moves_on {u : State} (hu : u.sched = s.sched) : (passTurn u).sched = s.sched.tail := by
    rw [passTurn_sched, hu]
  rcases step_cases h with ⟨-, rfl⟩ | ⟨w, ws, i, -, -, -, -, rfl⟩ | ⟨-, -, rfl⟩ | ⟨-, -, rfl⟩ | ⟨-, -, rfl⟩ |
    ⟨-, -, rfl⟩ | ⟨-, rfl⟩
  · rfl
  · rfl
  · obtain ⟨-, -, -, -, hsched⟩ := prefixStep_registers s
    exact moves_on hsched
  · exact moves_on (takeItem_sched s)
  · exact moves_on (by rw [outStep_eq])
  · exact moves_on (by rcases doneStep_cases s with ⟨-, e⟩ | ⟨-, e⟩ <;> rw [e])
  · rfl

/-- Where a run stands that began in the idle state `s` with a command and its frame on offer, when that frame ends in
`e`: the command is still offered, or its frame is in progress and bound to end in `e`, or it has ended there. The
schedule has moved on. -/
inductive FrameRun (s e : State) : State → Prop where
  | offered (ts : List Turn) : FrameRun s e (withSched ts s)
  | inFrame {t : State} (ts : List Turn) (hbusy : t.st = .busy) (hcmd : t.cmdCh = [])
    (hfinish : finish t = withSched ts e) : FrameRun s e t
  | ended (ts : List Turn) : FrameRun s e (withSched ts e)

section FrameRun

variable {i : Instr} {s e t u : State} {ts : List Turn}

theorem frameRun_offered (hst : s.st = .idle) (hoq : s.oq = []) (hcmd : s.cmdCh = [encode i])
    (hwf : i.len < 2 ^ s.cfg.lenw) (he : finish (accepted i s) = e) (hturn : turn (withSched ts s) ≠ .reset)
    (h : step (withSched ts s) = .next u) : FrameRun s e u := by
  by_cases ht : TakesCommand (withSched ts s)
  · obtain ⟨hcmdTurn, -, -⟩ := ht
    rw [step_accepts (s := withSched ts s) hst hcmdTurn hcmd (decode_encode hwf)] at h
    obtain rfl := Host.Outcome.next.inj h
    have hfinish := finish_withSched ts.tail (accepted i s)
    rw [he] at hfinish
    exact .inFrame ts.tail rfl (by simp [withSched, hcmd]) hfinish
  · rw [step_work hturn ht, workStep_of_not_busy (s := withSched ts s) (by simp [withSched, hst]) hoq] at h
    obtain rfl := Host.Outcome.next.inj h
    exact .offered ts.tail

theorem frameRun_inFrame (hbusy : t.st = .busy) (hcmd : t.cmdCh = []) (hfinish : finish t = withSched ts e)
    (hturn : turn t ≠ .reset) (h : step t = .next u) : FrameRun s e u := by
  rw [step_work hturn fun ⟨_, _, hne⟩ => hne hcmd] at h
  obtain rfl := Host.Outcome.next.inj h
  rcases finish_workStep hbusy (turn t) with ⟨hbusy', hsame⟩ | hlast
  · obtain ⟨-, -, hch⟩ := workStep_command (turn t) t
    have hpass := finish_withSched (workStep (turn t) t).sched.tail (workStep (turn t) t)
    rw [hsame, hfinish] at hpass
    exact .inFrame (workStep (turn t) t).sched.tail hbusy' (hch.trans hcmd) hpass
  · rw [hlast, hfinish]
    exact .ended ts.tail

theorem frameRun_ended (hst : e.st ≠ .busy) (hcmd : e.cmdCh = []) (hoq : e.oq = [])
    (hturn : turn (withSched ts e) ≠ .reset) (h : step (withSched ts e) = .next u) : FrameRun s e u := by
  rw [step_work hturn fun ⟨_, _, hne⟩ => hne hcmd, workStep_of_not_busy (s := withSched ts e) hst hoq] at h
  obtain rfl := Host.Outcome.next.inj h
  exact .ended ts.tail

end FrameRun

/-- Settles O49: every step keeps the run on its way to the end of its frame, and the sink at a beginning of what it
holds there. -/
theorem everyScheduleDeliversTheSameFrame : Obligations.EveryScheduleDeliversTheSameFrame := by
  intro i s t k _ hwf hst hoq hr hcmd hx hrun
  obtain ⟨hsink, hcmd', hin, hq, -, hend⟩ := finish_accepted (rest := []) hx (List.append_nil _).symm hoq
  rw [hcmd, List.tail_cons] at hcmd'
  have hover : (finish (accepted i s)).st ≠ .busy := doneStep_not_busy _
  generalize he : finish (accepted i s) = e at hsink hcmd' hin hq hend hover
  have hkeeps (t u : State) (h : NoReset t ∧ FrameRun s e t) (hstep : step t = .next u) :
      NoReset u ∧ FrameRun s e u := by
    obtain ⟨hnone, hrun⟩ := h
    have hturn := turn_ne_reset hnone
    refine ⟨fun τ hτ => hnone τ (List.mem_of_mem_tail (step_sched hstep ▸ hτ)), ?_⟩
    cases hrun with
    | offered ts => exact frameRun_offered hst hoq hcmd (wellFormed_iff.mp hwf) he hturn hstep
    | inFrame ts hbusy hnone hfinish => exact frameRun_inFrame hbusy hnone hfinish hturn hstep
    | ended ts => exact frameRun_ended hover hcmd' hq hturn hstep
  obtain ⟨-, hrun⟩ := runs_keeps hkeeps ⟨hr, .offered s.sched⟩ hrun
  cases hrun with
  | offered ts => exact ⟨_, rfl, fun hnone => absurd (hcmd.symm.trans hnone) (by simp)⟩
  | inFrame ts hbusy hnone hfinish =>
    have htotal := finish_sink t
    rw [hfinish] at htotal
    exact ⟨_, hsink.symm.trans htotal, fun _ hst => absurd hbusy hst⟩
  | ended ts =>
    have hhalt : e.st = .halt ↔ frameStatus s.cfg.alphabet i s.inCh = .outOfRange := by
      rw [hend]
      split <;> simp_all
    exact ⟨[], hsink.symm.trans (List.append_nil _).symm, fun _ _ => ⟨rfl, hin, hq, hhalt⟩⟩

end Sys2Proof.Machine

/-! SUPPORT. RESET in every state (70_reset_and_hazards.md R260, R261), and the core that waits for a stalled sink
(R274). -/
namespace Sys2Proof.Machine

/-! ### RESET -/

/-- On a RESET turn every command answers with the RESET step: it belongs to none of them (R261). -/
theorem exec_reset (i : Instr) {s : State} (ht : turn s = .reset) : exec i s = .next (passTurn (resetStep s)) := by
  simp [exec_eq_runCommand, runCommand, ht]

/-- While `rst` is 1 an edge has no beats (R260). -/
theorem clockEdge_of_rst {s : State} {p : InputPins s.cfg.lenw} (hr : p.rst = true) : clockEdge s p = resetStep s :=
  if_pos hr

theorem outputPins_of_rst (s : State) : (outputPins true s).cmdReady = false ∧ (outputPins true s).inReady = false ∧
    (outputPins true s).outValid = false ∧ (outputPins true s).doneValid = false :=
  ⟨rfl, rfl, rfl, rfl⟩

theorem resetStep_idem (s : State) : resetStep (resetStep s) = resetStep s := rfl

theorem fatalPin_resetStep (s : State) : fatalPin (resetStep s) = false := rfl

theorem canCmd_resetStep (s : State) : canCmd (resetStep s) = true := rfl

/-- Settles O18: `step` and every command take the same RESET step, which is that of an edge under `rst`. -/
theorem resetStepFromEveryState : Obligations.ResetStepFromEveryState := by
  intro s
  obtain ⟨hcmd, hin, hout, hdone⟩ := outputPins_of_rst s
  refine ⟨fun ht => ⟨step_reset ht, fun i => ?_⟩, fun p hr => clockEdge_of_rst hr, hcmd, hin, hout, hdone,
    fatalPin_resetStep s, canCmd_resetStep s, resetStep_idem s⟩
  rw [exec_reset i ht, step_reset ht]

/-! ### The stalled sink -/

section Stalled

variable {s : State}

/-- A queue without room leaves no step of the frame enabled but OUT: PREFIX and IN wait for room, and DONE for the
queue to be empty, which it is not (R197, R199, R209). -/
theorem disabled_of_no_room (hdepth : 5 ≤ s.cfg.oqDepth) (hfull : s.cfg.oqDepth < s.oq.length + 5) :
    canPrefix s = false ∧ canIn s = false ∧ canDone s = false := by
  have hroom : hasRoom s = false := by simp [hasRoom, hfull]
  have hne : s.oq ≠ [] := List.ne_nil_of_length_pos (by omega)
  simp [canPrefix, canIn, canDone, hroom, hne]

theorem workStep_of_no_room (hdepth : 5 ≤ s.cfg.oqDepth) (hfull : s.cfg.oqDepth < s.oq.length + 5) {t : Turn}
    (ht : t ≠ .out) : workStep t s = s := by
  obtain ⟨hpfx, hin, hdone⟩ := disabled_of_no_room hdepth hfull
  cases t with
  | pfx | inp | done => simp [workStep, hpfx, hin, hdone]
  | out => exact absurd rfl ht
  | cmd | reset => rfl

/-- In BUSY with a queue without room, every turn but OUT and RESET passes (R274). -/
theorem step_of_no_room (hdepth : 5 ≤ s.cfg.oqDepth) (hbusy : s.st = .busy)
    (hfull : s.cfg.oqDepth < s.oq.length + 5) (hout : turn s ≠ .out) (hreset : turn s ≠ .reset) :
    step s = .next (passTurn s) := by
  have hnoCmd : ¬ TakesCommand s := fun ⟨_, hidle, _⟩ => nomatch hbusy.symm.trans hidle
  rw [step_work hreset hnoCmd, workStep_of_no_room hdepth hfull hout]

/-- A run whose turns all pass changes the schedule alone. -/
theorem runs_of_passes {k : Nat}
    (h : ∀ n < k, step (withSched (s.sched.drop n) s) = .next (passTurn (withSched (s.sched.drop n) s))) :
    runs k s = .next (withSched (s.sched.drop k) s) := by
  induction k generalizing s with
  | zero => rfl
  | succ k ih =>
    have hstep : step s = .next (passTurn s) := h 0 k.succ_pos
    have hlater (n : Nat) : (passTurn s).sched.drop n = s.sched.drop (n + 1) := by
      rw [passTurn_sched, List.drop_tail]
    have hrest : runs k (passTurn s) = .next (withSched ((passTurn s).sched.drop k) (passTurn s)) := by
      refine ih fun n hn => ?_
      rw [hlater]
      exact h (n + 1) (Nat.succ_lt_succ hn)
    rw [runs_of_step hstep, hrest, hlater]
    rfl

end Stalled

/-- Settles O23: each turn of the schedule finds the same full queue, and passes. -/
theorem stalledSinkStopsTheCore : Obligations.StalledSinkStopsTheCore := by
  intro s k hdepth hbusy hfull hk hsched
  refine runs_of_passes fun n hn => ?_
  have hlt : n < s.sched.length := hn.trans_le hk
  have hturn : turn (withSched (s.sched.drop n) s) = s.sched[n] := turn_of_sched _ (List.drop_eq_getElem_cons hlt)
  obtain ⟨hout, hreset⟩ := hsched _ (List.getElem_mem hlt)
  exact step_of_no_room hdepth hbusy hfull (hturn ▸ hout) (hturn ▸ hreset)

end Sys2Proof.Machine
